-- ==== Sys2Proof/Word.lean ====
section
/-! DEFINITION. The word types of the machine (R9, R10). -/

namespace Sys2Proof

/-- A byte: a payload, an operand, an exchange of the serial bus. -/
abbrev Byte := BitVec 8

/-- A coordinate, a size, a colour, a raw touch coordinate (R9). -/
abbrev U16 := BitVec 16

/-- A 9-bit display word: bit 8 is D/CX, bits 7..0 the payload (R90). -/
abbrev Word9 := BitVec 9

/-- One of the eight serial divisor codes (R25, R103); their numbering is open (assumption 16). -/
abbrev DivCode := BitVec 3

end Sys2Proof
end

