-- ==== Sys2Proof/Config.lean ====
section
/-! DEFINITION. What an implementation fixes (R7, R8) and the free values the spec leaves open.
The constants of R7 have their values here. A parameter of R8 that is plain data is a field of `Params`,
which State carries (the model takes it as an argument). The rest are uninterpreted constants. -/

namespace Sys2Proof

/-- The calibration arithmetic (R8, R238, R239). -/
inductive CalArith where
  | s64
  | u32
  deriving DecidableEq, Repr, Inhabited

/-- The staleness-cache mode of a calibrated read (R8, R263, R264). -/
inductive CacheMode where
  | perAxis
  | exact
  deriving DecidableEq, Repr, Inhabited

/-- The parameters of R8 that are plain data. No step writes them. -/
structure Params where
  calArith  : CalArith
  cacheMode : CacheMode
  div8      : DivCode
  touchFill : Byte
  spiCpha   : Bool
  deriving DecidableEq, Repr

/-- A rectangle: top-left corner and size. -/
structure Rect where
  x : U16
  y : U16
  w : U16
  h : U16
  deriving DecidableEq, Repr, Inhabited

/-- The controller registers that R79 leaves unknown, not `none`, after a reset pulse. -/
structure CtlUnknown where
  pcount : Nat
  pbuf   : List Byte
  xs : U16
  xe : U16
  ys : U16
  ye : U16
  cx : U16
  cy : U16
  deriving DecidableEq, Repr, Inhabited

namespace Config

/-! ### Fixed by the source (R7) -/

/-- `LCD_WIDTH`. -/
def lcdWidth : Nat := 320
/-- `LCD_HEIGHT`. -/
def lcdHeight : Nat := 240
/-- `REQUIRED_PRESSURE`: a pressure of at most this is no touch. -/
def requiredPressure : Nat := 5
/-- `CAL_MARGIN`. -/
def calMargin : Nat := 20
/-- `T_RST_LOW`, a lower bound in milliseconds. -/
def tRstLow : Nat := 50
/-- `T_RST_WAIT`, a lower bound in milliseconds. -/
def tRstWait : Nat := 120
/-- `PIXEL_FORMAT_BYTE` (R101). -/
def pixelFormatByte : Byte := 0x55

/-! ### Left open (R8): uninterpreted -/

/-- DESIGN CHOICE (assumption 16): which of the eight codes is `DIV8` (D6). -/
opaque div8 : DivCode
/-- DESIGN CHOICE (assumption 16): `TOUCH_FILL` (D8). -/
opaque touchFill : Byte
/-- DESIGN CHOICE (assumption 16): `SPI_CPHA`; no rule reads it (D5). -/
opaque spiCpha : Bool
/-- DESIGN CHOICE (assumption 18): `ACK_RECT`, a rectangle for each target (D25). -/
opaque ackRect : U16 → U16 → Rect
/-- DESIGN CHOICE (assumption 18): `ACK_COLOUR`, a colour for each pair of operands (D25). -/
opaque ackColour : U16 → U16 → U16
/-- DESIGN CHOICE (assumption 17): `PHYS_MAP` as a permutation of the 76 800 positions for each MADCTL byte (D35):
logical position (x, y), numbered row by row, to physical position, numbered row by row. -/
opaque physMap : Byte → Equiv.Perm (Fin 76800)

/-! ### Free values -/

/-- DESIGN CHOICE (assumptions 12, 13): the n-th byte received from the bus when nothing outside fixes it (R80, R132). -/
opaque freeByte : Nat → Byte
/-- DESIGN CHOICE (assumption 11): the controller registers that are unknown after a reset pulse (R79). -/
opaque freeCtl : Nat → CtlUnknown
/-- DESIGN CHOICE (assumption 21): the quotient by a zero denominator, which R260 says cannot occur. -/
opaque quotByZero : Int → Int

end Config

/-- The parameters at their defaults (R8); those with no default are the uninterpreted constants. -/
def Params.default : Params :=
  { calArith := .s64, cacheMode := .perAxis, div8 := Config.div8
    touchFill := Config.touchFill, spiCpha := Config.spiCpha }

end Sys2Proof
end

