-- ==== Sys2Proof/Syntax.lean ====
section
/-! DEFINITION. The instructions: one constructor for each row of the opcode table (R120). -/

namespace Sys2Proof

/-- Every encoding of the block (R120). The four groups are four formats in four spaces: the 9-bit wire word, the
init-program byte, the touch-ADC command byte, the host operation. -/
inductive Instr where
  -- W9, the two word forms (R90).
  | cmd (b : Byte)
  | data (b : Byte)
  -- INIT8 (R94).
  | endProgram
  | dataRun (n : BitVec 6)
  | cmdRun (n : BitVec 6)
  | reservedInit (b : Byte)
  -- W9, the named display commands (R96).
  | nop
  | sleepOut
  | invOff
  | invOn
  | gamma
  | displayOff
  | displayOn
  | column
  | page
  | write
  | memAccessCtrl
  | pixelFormat
  | rgbCtrl
  | frameCtrl
  | displayCtrl
  | entryMode
  | powerCtrl1
  | powerCtrl2
  | vcomCtrl1
  | vcomCtrl2
  | powerCtrlA
  | powerCtrlB
  | posGamma
  | negGamma
  | drvTimingCtrlA
  | drvTimingCtrlB
  | powerOnSeqCtrl
  | enable3G
  | pumpRatioCtrl
  -- TOUCH8 (R108).
  | touchZ1
  | touchZ2
  | touchX
  | touchY
  -- HOSTOP (R118).
  | initBlock (k : DivCode)
  | beginTx
  | endTx
  | sendCmd (b : Byte)
  | sendData (b : Byte)
  | sendData16 (v : U16)
  | setOrientation (o : Byte)
  | setInverted (inv : Bool)
  | batchStart (x y w h : U16)
  | batchDraw (c : U16)
  | batchStop
  | drawPixel (x y c : U16)
  | fillRect (x y w h c : U16)
  | fillScreen (c : U16)
  | touchRawRead
  | touchCalibrate (fg bg : U16)
  | touchRead
  | setBrightness (pct : Byte)
  deriving DecidableEq, Repr

/-- The four spaces an encoding lives in. -/
inductive Space where
  | wire
  | rom
  | touch
  | host
  deriving DecidableEq, Repr

/-- Which format an instruction belongs to. -/
def Instr.space : Instr → Space
  | .endProgram | .dataRun _ | .cmdRun _ | .reservedInit _ => .rom
  | .touchZ1 | .touchZ2 | .touchX | .touchY => .touch
  | .initBlock _ | .beginTx | .endTx | .sendCmd _ | .sendData _ | .sendData16 _ | .setOrientation _
  | .setInverted _ | .batchStart _ _ _ _ | .batchDraw _ | .batchStop | .drawPixel _ _ _
  | .fillRect _ _ _ _ _ | .fillScreen _ | .touchRawRead | .touchCalibrate _ _ | .touchRead
  | .setBrightness _ => .host
  | .cmd _ | .data _ | .nop | .sleepOut | .invOff | .invOn | .gamma | .displayOff | .displayOn | .column
  | .page | .write | .memAccessCtrl | .pixelFormat | .rgbCtrl | .frameCtrl | .displayCtrl | .entryMode
  | .powerCtrl1 | .powerCtrl2 | .vcomCtrl1 | .vcomCtrl2 | .powerCtrlA | .powerCtrlB | .posGamma | .negGamma
  | .drvTimingCtrlA | .drvTimingCtrlB | .powerOnSeqCtrl | .enable3G | .pumpRatioCtrl => .wire

/-- An encoded instruction in its space. A host operation is a packet of bytes: the operation identifier and then
its operands (assumption 3). -/
inductive Code where
  | wire (w : Word9)
  | rom (b : Byte)
  | touch (b : Byte)
  | host (bs : List Byte)
  deriving DecidableEq, Repr

end Sys2Proof
end

