-- ==== Sys2Proof/WellFormed.lean ====
section
/-! DEFINITION. Which terms of `Instr` are the instruction of some encoding: a `cmd` names no named command, a
`reservedInit` holds a byte of a reserved kind (R94, R96). Every other term is an instruction at every operand. -/

namespace Sys2Proof

/-- The 29 command bytes of R96 that have a row of their own. -/
def namedCommandBytes : List Byte :=
  [0x00, 0x11, 0x20, 0x21, 0x26, 0x28, 0x29, 0x2A, 0x2B, 0x2C, 0x36, 0x3A, 0xB0, 0xB1, 0xB6]
  ++ [0xB7, 0xC0, 0xC1, 0xC5, 0xC7, 0xCB, 0xCF, 0xE0, 0xE1, 0xE8, 0xEA, 0xED, 0xF2, 0xF7]

/-- A byte of a reserved kind: kind 00, or kind 11 other than 0xFF (R94). -/
def isReservedInit (b : Byte) : Bool :=
  b != 0xFF && (b.extractLsb' 6 2 == 0b00 || b.extractLsb' 6 2 == 0b11)

/-- The term is the instruction of some encoding. -/
def WellFormed : Instr → Bool
  | .cmd b => !namedCommandBytes.contains b
  | .reservedInit b => isReservedInit b
  | .data _ | .endProgram | .dataRun _ | .cmdRun _ | .nop | .sleepOut | .invOff | .invOn | .gamma | .displayOff
  | .displayOn | .column | .page | .write | .memAccessCtrl | .pixelFormat | .rgbCtrl | .frameCtrl | .displayCtrl
  | .entryMode | .powerCtrl1 | .powerCtrl2 | .vcomCtrl1 | .vcomCtrl2 | .powerCtrlA | .powerCtrlB | .posGamma
  | .negGamma | .drvTimingCtrlA | .drvTimingCtrlB | .powerOnSeqCtrl | .enable3G | .pumpRatioCtrl | .touchZ1
  | .touchZ2 | .touchX | .touchY | .initBlock _ | .beginTx | .endTx | .sendCmd _ | .sendData _ | .sendData16 _
  | .setOrientation _ | .setInverted _ | .batchStart _ _ _ _ | .batchDraw _ | .batchStop | .drawPixel _ _ _
  | .fillRect _ _ _ _ _ | .fillScreen _ | .touchRawRead | .touchCalibrate _ _ | .touchRead
  | .setBrightness _ => true

end Sys2Proof
end

