-- ==== Sys2Proof/Decode.lean ====
section
/-! DEFINITION. The decoders of the four formats (R90, R94, R107, R118), then their encoder, then the assembly of
R113 and R114. Each decoder is total; what it rejects it rejects by name. -/

namespace Sys2Proof

/-! ### Bit fields -/

/-- The high byte of a 16-bit value, sent first (R64, R91). -/
def hiByte (v : U16) : Byte := v.extractLsb' 8 8

/-- The low byte of a 16-bit value, sent second. -/
def loByte (v : U16) : Byte := v.extractLsb' 0 8

/-- The 16-bit value of two bytes, the first the more significant (R64). -/
def joinBytes (hi lo : Byte) : U16 := hi ++ lo

/-- The 9-bit word with D/CX bit `dcx` and payload `b` (R90). -/
def word9 (dcx : Bool) (b : Byte) : Word9 := BitVec.cons dcx b

/-! ### Decoding -/

/-- Why a decoder rejects. -/
inductive DecodeError where
  /-- A host packet with no operation identifier. -/
  | emptyPacket
  /-- An identifier that spells no operation (R118). -/
  | unknownOp (op : Byte)
  /-- An operand outside its legal values (a divisor code over 7, an inversion bit over 1). -/
  | badOperand (op : Byte)
  /-- An operation with fewer or more operand bytes than it has. -/
  | badLength (op : Byte)
  /-- A touch-ADC byte the block never sends (R110). -/
  | touchByteNotSent (b : Byte)
  deriving DecidableEq, Repr

/-- The instruction of a command word (R96): its own row where the byte has one, else C. -/
def decodeCommand (b : Byte) : Instr :=
  match b with
  | 0x00#8 => .nop
  | 0x11#8 => .sleepOut
  | 0x20#8 => .invOff
  | 0x21#8 => .invOn
  | 0x26#8 => .gamma
  | 0x28#8 => .displayOff
  | 0x29#8 => .displayOn
  | 0x2A#8 => .column
  | 0x2B#8 => .page
  | 0x2C#8 => .write
  | 0x36#8 => .memAccessCtrl
  | 0x3A#8 => .pixelFormat
  | 0xB0#8 => .rgbCtrl
  | 0xB1#8 => .frameCtrl
  | 0xB6#8 => .displayCtrl
  | 0xB7#8 => .entryMode
  | 0xC0#8 => .powerCtrl1
  | 0xC1#8 => .powerCtrl2
  | 0xC5#8 => .vcomCtrl1
  | 0xC7#8 => .vcomCtrl2
  | 0xCB#8 => .powerCtrlA
  | 0xCF#8 => .powerCtrlB
  | 0xE0#8 => .posGamma
  | 0xE1#8 => .negGamma
  | 0xE8#8 => .drvTimingCtrlA
  | 0xEA#8 => .drvTimingCtrlB
  | 0xED#8 => .powerOnSeqCtrl
  | 0xF2#8 => .enable3G
  | 0xF7#8 => .pumpRatioCtrl
  | _ => .cmd b

/-- A 9-bit word is exactly one of C(b) and D(b) (R90, R115). -/
def decodeWire (w : Word9) : Instr :=
  if w.msb then .data (w.extractLsb' 0 8) else decodeCommand (w.extractLsb' 0 8)

/-- An init-program instruction byte, tested in the order of R94: 0xFF first. -/
def decodeRom (b : Byte) : Instr :=
  if b = 0xFF then .endProgram
  else if b.extractLsb' 6 2 = 0b10 then .dataRun (b.extractLsb' 0 6)
  else if b.extractLsb' 6 2 = 0b01 then .cmdRun (b.extractLsb' 0 6)
  else .reservedInit b

/-- The fields of a touch-ADC command byte (R107). -/
structure TouchFields where
  start   : Bool
  channel : BitVec 3
  mode8   : Bool
  single  : Bool
  pd      : BitVec 2
  deriving DecidableEq, Repr

/-- Every byte decodes to touch fields (R107, R115). -/
def touchFieldsOf (b : Byte) : TouchFields :=
  { start := b.getLsbD 7, channel := b.extractLsb' 4 3, mode8 := b.getLsbD 3, single := b.getLsbD 2
    pd := b.extractLsb' 0 2 }

/-- The command byte `0x80 | (A << 4) | (mode8 << 3) | (single << 2) | pd` (R107). -/
def touchCommand (channel : BitVec 3) (mode8 single : Bool) (pd : BitVec 2) : Byte :=
  0x80 ||| (channel.setWidth 8 <<< 4) ||| ((BitVec.ofBool mode8).setWidth 8 <<< 3)
    ||| ((BitVec.ofBool single).setWidth 8 <<< 2) ||| pd.setWidth 8

/-- The four command bytes the block sends (R108): channels Z1 = 3, Z2 = 4 at 8 bits, X = 5, Y = 1 at 12 bits, all
differential, power-down 0b00 (R104, R105, R106). -/
def touchByteZ1 : Byte := touchCommand 3 true false 0
def touchByteZ2 : Byte := touchCommand 4 true false 0
def touchByteX : Byte := touchCommand 5 false false 0
def touchByteY : Byte := touchCommand 1 false false 0

/-- A touch-ADC command byte: one of the four, else rejected (R110). -/
def decodeTouch (b : Byte) : Except DecodeError Instr :=
  match b with
  | 0xB8#8 => .ok .touchZ1
  | 0xC8#8 => .ok .touchZ2
  | 0xD0#8 => .ok .touchX
  | 0x90#8 => .ok .touchY
  | _ => .error (.touchByteNotSent b)

/-- How many operand bytes a host operation has (R118, R9): two for a u16, one for a byte, a bit, a divisor code. -/
def operandBytes (op : Byte) : Option Nat :=
  match op with
  | 0x01#8 => some 1
  | 0x02#8 => some 0
  | 0x03#8 => some 0
  | 0x04#8 => some 1
  | 0x05#8 => some 1
  | 0x06#8 => some 2
  | 0x07#8 => some 1
  | 0x08#8 => some 1
  | 0x09#8 => some 8
  | 0x0A#8 => some 2
  | 0x0B#8 => some 0
  | 0x0C#8 => some 6
  | 0x0D#8 => some 10
  | 0x0E#8 => some 2
  | 0x0F#8 => some 0
  | 0x10#8 => some 4
  | 0x11#8 => some 0
  | 0x12#8 => some 1
  | _ => none

/-- The operation `op` with operand bytes `args` (R118); an operand outside its legal values is rejected (R34). -/
def decodeOperands (op : Byte) (args : List Byte) : Except DecodeError Instr :=
  match op with
  | 0x01#8 => match args with
    | [k] => if k.toNat < 8 then .ok (.initBlock (k.setWidth 3)) else .error (.badOperand op)
    | _ => .error (.badLength op)
  | 0x02#8 => match args with
    | [] => .ok .beginTx
    | _ => .error (.badLength op)
  | 0x03#8 => match args with
    | [] => .ok .endTx
    | _ => .error (.badLength op)
  | 0x04#8 => match args with
    | [b] => .ok (.sendCmd b)
    | _ => .error (.badLength op)
  | 0x05#8 => match args with
    | [b] => .ok (.sendData b)
    | _ => .error (.badLength op)
  | 0x06#8 => match args with
    | [h, l] => .ok (.sendData16 (joinBytes h l))
    | _ => .error (.badLength op)
  | 0x07#8 => match args with
    | [o] => .ok (.setOrientation o)
    | _ => .error (.badLength op)
  | 0x08#8 => match args with
    | [v] => if v.toNat < 2 then .ok (.setInverted (v.getLsbD 0)) else .error (.badOperand op)
    | _ => .error (.badLength op)
  | 0x09#8 => match args with
    | [x1, x0, y1, y0, w1, w0, h1, h0] => .ok
        (.batchStart (joinBytes x1 x0) (joinBytes y1 y0) (joinBytes w1 w0) (joinBytes h1 h0))
    | _ => .error (.badLength op)
  | 0x0A#8 => match args with
    | [c1, c0] => .ok (.batchDraw (joinBytes c1 c0))
    | _ => .error (.badLength op)
  | 0x0B#8 => match args with
    | [] => .ok .batchStop
    | _ => .error (.badLength op)
  | 0x0C#8 => match args with
    | [x1, x0, y1, y0, c1, c0] => .ok (.drawPixel (joinBytes x1 x0) (joinBytes y1 y0) (joinBytes c1 c0))
    | _ => .error (.badLength op)
  | 0x0D#8 => match args with
    | [x1, x0, y1, y0, w1, w0, h1, h0, c1, c0] => .ok
        (.fillRect (joinBytes x1 x0) (joinBytes y1 y0) (joinBytes w1 w0) (joinBytes h1 h0) (joinBytes c1 c0))
    | _ => .error (.badLength op)
  | 0x0E#8 => match args with
    | [c1, c0] => .ok (.fillScreen (joinBytes c1 c0))
    | _ => .error (.badLength op)
  | 0x0F#8 => match args with
    | [] => .ok .touchRawRead
    | _ => .error (.badLength op)
  | 0x10#8 => match args with
    | [f1, f0, b1, b0] => .ok (.touchCalibrate (joinBytes f1 f0) (joinBytes b1 b0))
    | _ => .error (.badLength op)
  | 0x11#8 => match args with
    | [] => .ok .touchRead
    | _ => .error (.badLength op)
  | 0x12#8 => match args with
    | [p] => .ok (.setBrightness p)
    | _ => .error (.badLength op)
  | _ => .error (.unknownOp op)

/-- A host packet: the identifier, then its operands. -/
def decodeHost : List Byte → Except DecodeError Instr
  | [] => .error .emptyPacket
  | op :: args => decodeOperands op args

/-- The decoder, total on every code of every space. -/
def decode : Code → Except DecodeError Instr
  | .wire w => .ok (decodeWire w)
  | .rom b => .ok (decodeRom b)
  | .touch b => decodeTouch b
  | .host bs => decodeHost bs

/-! ### Encoding -/

/-- The two bytes of a 16-bit operand, high byte first. -/
def bytesOf (v : U16) : List Byte := [hiByte v, loByte v]

/-- The word of a well-formed instruction, from the tables of R90, R94, R96, R108 and R118. -/
def encode : Instr → Code
  | .cmd b => .wire (word9 false b)
  | .data b => .wire (word9 true b)
  | .endProgram => .rom 0xFF
  | .dataRun n => .rom (0b10#2 ++ n)
  | .cmdRun n => .rom (0b01#2 ++ n)
  | .reservedInit b => .rom b
  | .nop => .wire 0x000
  | .sleepOut => .wire 0x011
  | .invOff => .wire 0x020
  | .invOn => .wire 0x021
  | .gamma => .wire 0x026
  | .displayOff => .wire 0x028
  | .displayOn => .wire 0x029
  | .column => .wire 0x02A
  | .page => .wire 0x02B
  | .write => .wire 0x02C
  | .memAccessCtrl => .wire 0x036
  | .pixelFormat => .wire 0x03A
  | .rgbCtrl => .wire 0x0B0
  | .frameCtrl => .wire 0x0B1
  | .displayCtrl => .wire 0x0B6
  | .entryMode => .wire 0x0B7
  | .powerCtrl1 => .wire 0x0C0
  | .powerCtrl2 => .wire 0x0C1
  | .vcomCtrl1 => .wire 0x0C5
  | .vcomCtrl2 => .wire 0x0C7
  | .powerCtrlA => .wire 0x0CB
  | .powerCtrlB => .wire 0x0CF
  | .posGamma => .wire 0x0E0
  | .negGamma => .wire 0x0E1
  | .drvTimingCtrlA => .wire 0x0E8
  | .drvTimingCtrlB => .wire 0x0EA
  | .powerOnSeqCtrl => .wire 0x0ED
  | .enable3G => .wire 0x0F2
  | .pumpRatioCtrl => .wire 0x0F7
  | .touchZ1 => .touch touchByteZ1
  | .touchZ2 => .touch touchByteZ2
  | .touchX => .touch touchByteX
  | .touchY => .touch touchByteY
  | .initBlock k => .host [0x01, k.setWidth 8]
  | .beginTx => .host [0x02]
  | .endTx => .host [0x03]
  | .sendCmd b => .host [0x04, b]
  | .sendData b => .host [0x05, b]
  | .sendData16 v => .host (0x06 :: bytesOf v)
  | .setOrientation o => .host [0x07, o]
  | .setInverted inv => .host [0x08, (BitVec.ofBool inv).setWidth 8]
  | .batchStart x y w h => .host (0x09 :: (bytesOf x ++ bytesOf y ++ bytesOf w ++ bytesOf h))
  | .batchDraw c => .host (0x0A :: bytesOf c)
  | .batchStop => .host [0x0B]
  | .drawPixel x y c => .host (0x0C :: (bytesOf x ++ bytesOf y ++ bytesOf c))
  | .fillRect x y w h c => .host (0x0D :: (bytesOf x ++ bytesOf y ++ bytesOf w ++ bytesOf h ++ bytesOf c))
  | .fillScreen c => .host (0x0E :: bytesOf c)
  | .touchRawRead => .host [0x0F]
  | .touchCalibrate fg bg => .host (0x10 :: (bytesOf fg ++ bytesOf bg))
  | .touchRead => .host [0x11]
  | .setBrightness pct => .host [0x12, pct]

/-! ### The opcode table's numbering -/

/-- A host packet with identifier `op` and every operand byte zero. -/
def zeroPacket (op : Byte) : List Byte := op :: List.replicate ((operandBytes op).getD 0) 0

/-- The space a table word belongs to. A row of more than eight bits is a 9-bit wire word. A row of eight bits is in
one of three spaces that the table does not tell apart by value: the four touch bytes, then the eighteen operation
identifiers, then the init-program bytes (assumption 2). -/
def tableCode (nbits w : Nat) : Option Code :=
  if 8 < nbits then
    if w < 512 then some (.wire (BitVec.ofNat 9 w)) else none
  else if 256 ≤ w then none
  else if w = 0xB8 ∨ w = 0xC8 ∨ w = 0xD0 ∨ w = 0x90 then some (.touch (BitVec.ofNat 8 w))
  else if 0x01 ≤ w ∧ w ≤ 0x12 then some (.host (zeroPacket (BitVec.ofNat 8 w)))
  else some (.rom (BitVec.ofNat 8 w))

/-- The instruction the decoder reads from a table word. -/
def decodeTableWord (nbits w : Nat) : Option Instr :=
  match tableCode nbits w with
  | none => none
  | some c =>
    match decode c with
    | .ok i => some i
    | .error _ => none

/-! ### Assembly (R113, R114): the spec's own notation -/

/-- `CMD b1, …, bn` (n at most 63). -/
def asmCmd (bs : List Byte) : List Byte := (0x40#8 ||| BitVec.ofNat 8 bs.length) :: bs

/-- `DATA b1, …, bn` (n at most 63). -/
def asmData (bs : List Byte) : List Byte := (0x80#8 ||| BitVec.ofNat 8 bs.length) :: bs

/-- `SEQ c: b1, …, bn`; no DATA line when n = 0. -/
def asmSeq (c : Byte) (bs : List Byte) : List Byte :=
  asmCmd [c] ++ (if bs.isEmpty then [] else asmData bs)

/-- `END`. -/
def asmEnd : List Byte := [0xFF]

/-- `CMDSEQ c, b1, …, bn` as host operations. -/
def cmdSeq (c : Byte) (bs : List Byte) : List Instr :=
  [.beginTx, .sendCmd c] ++ bs.map Instr.sendData ++ [.endTx]

/-! ### The init program as a byte list (R141, R142) -/

/-- A parsed line of an init program: a run of bytes, data or command. -/
structure InitRun where
  dcx   : Bool
  bytes : List Byte
  deriving DecidableEq, Repr

/-- Parse a byte list by R94 and R95, at most `fuel` instructions: its runs up to END, or nothing if it is ill-formed
(R141). -/
def parseInitProgram : Nat → List Byte → Option (List InitRun)
  | 0, _ => none
  | _ + 1, [] => none
  | fuel + 1, b :: rest =>
    match decodeRom b with
    | .endProgram => some []
    | .dataRun n =>
      if n.toNat < rest.length then
        (parseInitProgram fuel (rest.drop n.toNat)).map (⟨true, rest.take n.toNat⟩ :: ·)
      else none
    | .cmdRun n =>
      if n.toNat < rest.length then
        (parseInitProgram fuel (rest.drop n.toNat)).map (⟨false, rest.take n.toNat⟩ :: ·)
      else none
    | _ => none

/-- The runs of a byte list; each instruction takes at least one byte, so its length is fuel enough. -/
def initRuns (p : List Byte) : Option (List InitRun) := parseInitProgram p.length p

/-- A byte list is a well-formed init program (R141). -/
def initProgramOk (p : List Byte) : Bool := (initRuns p).isSome

/-- The program sends command `c` as a run of one, then a run of data that `ok` accepts (R142). -/
def sendsSeq (runs : List InitRun) (c : Byte) (ok : List Byte → Bool) : Bool :=
  match runs with
  | [] => false
  | r :: rest =>
    (r == ⟨false, [c]⟩ && (match rest with | d :: _ => d.dcx && ok d.bytes | [] => false)) || sendsSeq rest c ok

/-- The content R142 requires of the lost init program, as far as the spec gives it. -/
def initProgramConforms (p : List Byte) : Bool :=
  match initRuns p with
  | none => false
  | some runs =>
    sendsSeq runs 0x3A (· == [Config.pixelFormatByte])
    && sendsSeq runs 0xE0 (·.length == 15) && sendsSeq runs 0xE1 (·.length == 15)
    && sendsSeq runs 0x36 (fun d => d.length == 1 && d.all (·.getLsbD 3))
    && sendsSeq runs 0x2A (·.length == 4) && sendsSeq runs 0x2B (·.length == 4)
    && runs.contains ⟨false, [0x11]⟩

end Sys2Proof
end

