-- ==== Sys2Proof/Machine/State.lean ====
section
/-! DEFINITION. The state of the machine, as plain data: the block record `st` (R20 to R34), the display controller
`ctl` (R73), the init-program ROM (R62), the wire record (R60), and the model's own fields (assumption 31). -/

namespace Sys2Proof.Machine

/-- The fault codes (R302). -/
inductive FaultCode where
  | notInit
  | batch
  | bracket
  | busConflict
  | badOperand
  | badInitProgram
  | refused
  deriving DecidableEq, Repr

/-- The serial bit order (R25). -/
inductive BitOrder where
  | msbFirst
  | lsbFirst
  deriving DecidableEq, Repr

/-- The four orientations (R99). The orientation register is a byte with four legal values (R28, R34); its byte and
its fields are computed in Machine/Operands.lean. -/
inductive Orientation where
  | deg0
  | deg90
  | deg180
  | deg270
  deriving DecidableEq, Repr

/-- The outcome of a host operation, with its values (R300). `sample` is what a touch command run as a step of its
own read (assumption 28). -/
inductive OpResult where
  | ok
  | raw (p : Byte) (tx ty : U16)
  | point (x y : U16)
  | noTouch
  | calFailed
  | faulted (code : FaultCode)
  | sample (v : U16)
  deriving DecidableEq, Repr

/-- The long operation in progress, if any: INIT inside its init program, INIT after it, TOUCH_CALIBRATE polling. -/
inductive Activity where
  | idle
  | initProgram
  | initTail
  | polling (fg bg : U16)
  deriving DecidableEq, Repr

/-- What is issued to the block and not yet accepted: a host operation's bytes; or, a level below, one 9-bit word
for the framer or one command byte for the touch bus (assumption 2). -/
inductive Packet where
  | host (bs : List Byte)
  | wire (w : Word9)
  | touch (b : Byte)
  deriving DecidableEq, Repr

/-- The events of the wire record at pin level (R60). A 9-bit word is its pin-level expansion (R133). A level is
`true` for 1; chip-selects and reset are asserted at 0. -/
inductive WireEvent where
  | csd (v : Bool)
  | cst (v : Bool)
  | rst (v : Bool)
  | wait (ms : Nat)
  | div (k : DivCode)
  | order (o : BitOrder)
  | x8 (o i : Byte)
  | mosi (v : Bool)
  | sck (v : Bool)
  | spe (v : Bool)
  deriving DecidableEq, Repr

/-- The events of the wire record at word level (R60): a 9-bit word, or any event that is not a word's. -/
inductive WordEvent where
  | w9 (dcx : Bool) (b : Byte)
  | ev (e : WireEvent)
  deriving DecidableEq, Repr

/-- A raw touch point. -/
structure RawPoint where
  x : U16
  y : U16
  deriving DecidableEq, Repr

/-- The three raw points a calibration collects (R32). -/
structure CalPoints where
  p0 : RawPoint
  p1 : RawPoint
  p2 : RawPoint
  deriving DecidableEq, Repr

/-- The seven calibration words (R30), each u32 or s64 by `CAL_ARITH`, held in 64 bits (assumption 32). -/
structure CalWords where
  a : BitVec 64
  b : BitVec 64
  c : BitVec 64
  d : BitVec 64
  e : BitVec 64
  f : BitVec 64
  cdiv : BitVec 64
  deriving DecidableEq, Repr

/-- The block record `st` (R20): the fields of R21 to R32 and nothing else. -/
structure Block where
  initDone   : Bool
  fault      : Option FaultCode
  dcsN       : Bool
  tcsN       : Bool
  rstN       : Bool
  spe        : Bool
  mosiLatch  : Bool
  sckLatch   : Bool
  div        : DivCode
  order      : BitOrder
  dispDiv    : DivCode
  ip         : Nat
  orient     : Orientation
  width      : U16
  height     : U16
  inBatch    : Bool
  calibrated : Bool
  cal        : CalWords
  lastTx     : U16
  lastTy     : U16
  lastP      : Byte
  sxC        : U16
  syC        : U16
  calI       : Nat
  calT       : CalPoints
  calSaved   : Orientation
  deriving DecidableEq, Repr

/-- A byte memory: cells at strictly rising addresses; an unlisted address holds no byte. -/
abbrev Memory := List Host.Cell

/-- The display memory: known pixels at strictly rising physical positions, numbered row by row; an unlisted position
is `none`, unknown (R73, R79). -/
abbrev Gram := List (Nat × U16)

/-- The display controller (R73). In an `Option` field `none` means unknown. -/
structure Ctl where
  cmd    : Option Byte
  pcount : Nat
  pbuf   : List Byte
  xs     : U16
  xe     : U16
  ys     : U16
  ye     : U16
  cx     : U16
  cy     : U16
  hi     : Option Byte
  madctl : Option Byte
  inv    : Option Bool
  on     : Option Bool
  awake  : Option Bool
  pixfmt : Option Byte
  gram   : Gram
  deriving DecidableEq, Repr

/-- The machine. -/
structure State where
  st       : Block
  ctl      : Ctl
  rom      : Memory
  wireRev  : List WireEvent
  params   : Params
  activity : Activity
  issue    : List Packet
  result   : Option OpResult
  adc      : List Byte
  draws    : Nat
  deriving DecidableEq, Repr

/-- Why the machine stops with a fault. A contract violation of the spec is no such stop: it is a next state (R303). -/
inductive Fault where
  /-- Raised by a calibration poll whose point index is over 2. No run reaches such a state and the spec gives it no
  meaning. Safe: the machine stops (assumption 30). -/
  | calIndexOutOfRange
  deriving DecidableEq, Repr

/-- Why the machine refuses. -/
inductive Refusal where
  /-- An instruction that has no meaning in the model. Raised by no arm. Safe. -/
  | notModelled (mnemonic : String)
  /-- Raised by `step` on a touch-bus packet that holds a byte the block never sends: no rule gives it a meaning
  (R110, I9). Safe (assumption 5). -/
  | touchByteNotSent (b : Byte)
  deriving DecidableEq, Repr

/-- The calibration words at power-on: DESIGN CHOICE zero (assumption 8). -/
def CalWords.zero : CalWords := { a := 0, b := 0, c := 0, d := 0, e := 0, f := 0, cdiv := 0 }

/-- The raw points at power-on: DESIGN CHOICE zero (assumption 8). -/
def CalPoints.zero : CalPoints := { p0 := ⟨0, 0⟩, p1 := ⟨0, 0⟩, p2 := ⟨0, 0⟩ }

/-- The block at power-on (R35); what R35 leaves unspecified is chosen (assumptions 7, 8, 9). -/
def Block.powerOn : Block :=
  { initDone := false, fault := none
    dcsN := true, tcsN := true, rstN := true
    spe := false, mosiLatch := false, sckLatch := false
    div := 0, order := .msbFirst, dispDiv := 0, ip := 0
    orient := .deg0, width := 320, height := 240
    inBatch := false, calibrated := false, cal := CalWords.zero
    lastTx := 0, lastTy := 0, lastP := 0, sxC := 0, syC := 0
    calI := 0, calT := CalPoints.zero, calSaved := .deg0 }

/-- The controller at power-on: everything unknown (R79, D35); the registers with no `none` are chosen (assumption 10). -/
def Ctl.powerOn : Ctl :=
  { cmd := none, pcount := 0, pbuf := [], xs := 0, xe := 0, ys := 0, ye := 0, cx := 0, cy := 0
    hi := none, madctl := none, inv := none, on := none, awake := none, pixfmt := none, gram := [] }

/-- The machine at power-on (R35): nothing emitted, no ROM content, nothing issued. -/
def State.reset : State :=
  { st := Block.powerOn, ctl := Ctl.powerOn, rom := [], wireRev := [], params := Params.default
    activity := .idle, issue := [], result := none, adc := [], draws := 0 }

end Sys2Proof.Machine
end

