-- ==== Sys2Proof/Machine/Memory.lean ====
section
/-! DEFINITION. Sparse stores in one canonical form, keys strictly rising: the init-program ROM (R62) and the display
memory (R73) are two of them. -/

namespace Sys2Proof.Machine

/-- What is stored at key `k`, if anything. -/
def Store.read {α : Type} : List (Nat × α) → Nat → Option α
  | [], _ => none
  | (a, v) :: rest, k => if a = k then some v else Store.read rest k

/-- Store `v` at key `k`, keeping the keys strictly rising. -/
def Store.write {α : Type} : List (Nat × α) → Nat → α → List (Nat × α)
  | [], k, v => [(k, v)]
  | (a, w) :: rest, k, v =>
    if k < a then (k, v) :: (a, w) :: rest
    else if k = a then (k, v) :: rest
    else (a, w) :: Store.write rest k v

/-- The canonical form: keys strictly rising. -/
def Store.wf {α : Type} : List (Nat × α) → Bool
  | [] => true
  | [_] => true
  | (a, _) :: (b, w) :: rest => decide (a < b) && Store.wf ((b, w) :: rest)

/-- The canonical form of a memory. An unlisted address holds no byte, so no entry equals what it reads as. -/
def Memory.wf (m : Memory) : Bool := Store.wf m

/-- `MemRead(ROM, i, 1)` where the ROM has byte i (R62). -/
def Memory.read (m : Memory) (a : Nat) : Option Byte := Store.read m a

/-- The `n` bytes from address `a` on, where the ROM has them all. -/
def Memory.readList : Memory → Nat → Nat → Option (List Byte)
  | _, _, 0 => some []
  | m, a, n + 1 =>
    match Memory.read m a, Memory.readList m (a + 1) n with
    | some b, some bs => some (b :: bs)
    | _, _ => none

/-- One byte written; only the loader of a ROM does it (R63). -/
def Memory.write (m : Memory) (a : Nat) (b : Byte) : Memory := Store.write m a b

/-- Bytes written at consecutive addresses. -/
def Memory.writeList : Memory → Nat → List Byte → Memory
  | m, _, [] => m
  | m, a, b :: rest => Memory.writeList (Memory.write m a b) (a + 1) rest

/-- The canonical form of the display memory. -/
def Gram.wf (g : Gram) : Bool := Store.wf g

/-- The pixel at a physical position; `none` is unknown (R73). -/
def Gram.read (g : Gram) (k : Nat) : Option U16 := Store.read g k

/-- One pixel written. -/
def Gram.write (g : Gram) (k : Nat) (p : U16) : Gram := Store.write g k p

/-- Every position becomes unknown (R79). -/
def Gram.havoc : Gram := []

end Sys2Proof.Machine
end

