-- ==== Sys2Proof/Machine/Controller.lean ====
section
/-! DEFINITION. The display controller's contract (R73 to R79): what it does with each word it receives. -/

namespace Sys2Proof.Machine

/-- The MADCTL bytes of the four orientations (R99). -/
def isOrientationMadctl (m : Byte) : Bool := m == 0xE8 || m == 0x48 || m == 0x38 || m == 0x88

/-- `W(m)`: 320 when MV is set, else 240 (R76). -/
def panelWidth (m : Byte) : Nat := if m.getLsbD 5 then Config.lcdWidth else Config.lcdHeight

/-- `H(m)`: 240 when MV is set, else 320 (R76). -/
def panelHeight (m : Byte) : Nat := if m.getLsbD 5 then Config.lcdHeight else Config.lcdWidth

/-- `PHYS_MAP(m, x, y)`: the physical position, numbered row by row, of the logical position (x, y); none where (x, y)
is no logical position of `m` (R8, assumption 17). -/
def physCell (m : Byte) (x y : Nat) : Option Nat :=
  if h : x < panelWidth m ∧ y < panelHeight m ∧ y * panelWidth m + x < 76800 then
    some (Config.physMap m ⟨y * panelWidth m + x, h.2.2⟩).val
  else none

/-- The window is in bounds under MADCTL byte `m` (R76). -/
def Ctl.windowOk (c : Ctl) (m : Byte) : Bool :=
  decide (c.xs.toNat ≤ c.xe.toNat ∧ c.xe.toNat < panelWidth m
    ∧ c.ys.toNat ≤ c.ye.toNat ∧ c.ye.toNat < panelHeight m)

/-- The position a pixel write reaches, where R76 gives one: MADCTL is one of the four bytes and the window is in
bounds; the cursor is then a logical position (assumption 20). -/
def Ctl.target (c : Ctl) : Option Nat :=
  match c.madctl with
  | none => none
  | some m => if isOrientationMadctl m && c.windowOk m then physCell m c.cx.toNat c.cy.toNat else none

/-- `GramWrite` at the cursor (R76); in every other case the write makes the whole GRAM unknown (R79). -/
def Ctl.gramWrite (c : Ctl) (p : U16) : Ctl :=
  match c.target with
  | some k => { c with gram := c.gram.write k p }
  | none => { c with gram := Gram.havoc }

/-- The cursor advance with its two wraps (R77). -/
def Ctl.advance (c : Ctl) : Ctl :=
  if c.cx.toNat + 1 > c.xe.toNat then
    if c.cy.toNat + 1 > c.ye.toNat then { c with cx := c.xs, cy := c.ys }
    else { c with cx := c.xs, cy := c.cy + 1 }
  else { c with cx := c.cx + 1 }

/-- What every command word does (R74). -/
def Ctl.latchCommand (c : Ctl) (b : Byte) : Ctl :=
  { c with cmd := some b, pcount := 0, pbuf := [], hi := none }

/-- A command word C(b) (R74). -/
def Ctl.command (c : Ctl) (b : Byte) : Ctl :=
  let c' := c.latchCommand b
  match b with
  | 0x2C#8 => { c' with cx := c.xs, cy := c.ys }
  | 0x28#8 => { c' with on := some false }
  | 0x29#8 => { c' with on := some true }
  | 0x11#8 => { c' with awake := some true }
  | 0x20#8 => { c' with inv := some false }
  | 0x21#8 => { c' with inv := some true }
  | _ => c'

/-- A data word counted and nothing else. -/
def Ctl.count (c : Ctl) : Ctl := { c with pcount := c.pcount + 1 }

/-- A data word under COLUMN or PAGE, stored and counted (R75). -/
def Ctl.pushParam (c : Ctl) (b : Byte) : Ctl :=
  { c with pbuf := c.pbuf ++ [b], pcount := c.pcount + 1 }

/-- A data word under COLUMN: the fourth sets the columns (R75). -/
def Ctl.columnData (c : Ctl) (b : Byte) : Ctl :=
  let c' := c.pushParam b
  match c'.pcount, c'.pbuf with
  | 4, [b0, b1, b2, b3] => { c' with xs := joinBytes b0 b1, xe := joinBytes b2 b3 }
  | _, _ => c'

/-- A data word under PAGE: the fourth sets the rows (R75). -/
def Ctl.pageData (c : Ctl) (b : Byte) : Ctl :=
  let c' := c.pushParam b
  match c'.pcount, c'.pbuf with
  | 4, [b0, b1, b2, b3] => { c' with ys := joinBytes b0 b1, ye := joinBytes b2 b3 }
  | _, _ => c'

/-- A data word under WRITE: a pixel's high byte, then its low byte (R76). -/
def Ctl.pixelData (c : Ctl) (b : Byte) : Ctl :=
  match c.hi with
  | none => { c with hi := some b }
  | some h => { (c.gramWrite (joinBytes h b)).advance with hi := none }

/-- A data word under MEMACCESS_CTRL: the first is the MADCTL byte (R78). -/
def Ctl.madctlData (c : Ctl) (b : Byte) : Ctl :=
  (if c.pcount = 0 then { c with madctl := some b } else c).count

/-- A data word under PIXEL_FORMAT: the first is the format byte (R78). -/
def Ctl.pixfmtData (c : Ctl) (b : Byte) : Ctl :=
  (if c.pcount = 0 then { c with pixfmt := some b } else c).count

/-- A data word D(b) (R75, R76, R78); under any other command, or none, it is only counted. -/
def Ctl.dataWord (c : Ctl) (b : Byte) : Ctl :=
  match c.cmd with
  | some 0x2A#8 => c.columnData b
  | some 0x2B#8 => c.pageData b
  | some 0x2C#8 => c.pixelData b
  | some 0x36#8 => c.madctlData b
  | some 0x3A#8 => c.pixfmtData b
  | _ => c.count

/-- One word received (R73). -/
def Ctl.word (c : Ctl) (dcx : Bool) (b : Byte) : Ctl := if dcx then c.dataWord b else c.command b

/-- The controller after a reset pulse: every field `none` or unknown (R79). `u` holds the unknown ones (assumption 11). -/
def Ctl.afterReset (u : CtlUnknown) : Ctl :=
  { cmd := none, pcount := u.pcount, pbuf := u.pbuf, xs := u.xs, xe := u.xe, ys := u.ys, ye := u.ye
    cx := u.cx, cy := u.cy, hi := none, madctl := none, inv := none, on := none, awake := none
    pixfmt := none, gram := Gram.havoc }

end Sys2Proof.Machine
end

