-- ==== Sys2Proof/Machine/Operands.lean ====
section
/-! DEFINITION. Every operand form the operations compute from their operands: orientation values (R98, R99), pixel
values (R92), rectangles (R165), windows (R102, R161), calibration targets (R232, R233), touch values (R109). -/

namespace Sys2Proof.Machine

/-! ### Orientation (R98, R99, R100) -/

/-- The orientation value, a byte (R99). -/
def Orientation.byte : Orientation → Byte
  | .deg0 => 0xE8
  | .deg90 => 0x49
  | .deg180 => 0x38
  | .deg270 => 0x89

/-- The orientation a byte names; every byte other than the four is reserved (R100). -/
def Orientation.ofByte (o : Byte) : Option Orientation :=
  match o with
  | 0xE8#8 => some .deg0
  | 0x49#8 => some .deg90
  | 0x38#8 => some .deg180
  | 0x89#8 => some .deg270
  | _ => none

/-- `base(o) = o[1:0]`: 0 landscape, 1 portrait (R98). -/
def orientBase (o : Byte) : BitVec 2 := o.extractLsb' 0 2

/-- `madctl(o) = o & 0xFC` (R98). -/
def orientMadctl (o : Byte) : Byte := o &&& 0xFC

/-- The logical width of an orientation value (R168). -/
def orientWidth (o : Byte) : U16 :=
  if orientBase o = 0 then BitVec.ofNat 16 Config.lcdWidth else BitVec.ofNat 16 Config.lcdHeight

/-- The logical height of an orientation value (R168). -/
def orientHeight (o : Byte) : U16 :=
  if orientBase o = 0 then BitVec.ofNat 16 Config.lcdHeight else BitVec.ofNat 16 Config.lcdWidth

/-! ### Pixels (R92) -/

/-- `RGB(r, g, b)`: the top bits of each channel (R92, D46). -/
def rgb (r g b : Byte) : U16 := r.extractLsb' 3 5 ++ g.extractLsb' 2 6 ++ b.extractLsb' 3 5

/-! ### Rectangles and windows -/

/-- The clamp of a corner coordinate: `if v ≥ dim then dim − 1` (R165). -/
def clampStart (dim v : Nat) : Nat := if v ≥ dim then dim - 1 else v

/-- The clamp of a size: `if v + n ≥ dim then dim − v`, in exact arithmetic (R165, D32). -/
def clampSize (dim v n : Nat) : Nat := if v + n ≥ dim then dim - v else n

/-- `CLAMP_RECT` under logical dimensions `width` × `height` (R165). -/
def clampRect (width height : U16) (r : Rect) : Rect :=
  let x := clampStart width.toNat r.x.toNat
  let y := clampStart height.toNat r.y.toNat
  { x := BitVec.ofNat 16 x, y := BitVec.ofNat 16 y
    w := BitVec.ofNat 16 (clampSize width.toNat x r.w.toNat)
    h := BitVec.ofNat 16 (clampSize height.toNat y r.h.toNat) }

/-- The range [v, v + n − 1] is not empty and fits 16 bits, in exact arithmetic (R161, D33). -/
def rangeOk (v n : U16) : Bool := n != 0 && decide (v.toNat + n.toNat - 1 ≤ 0xFFFF)

/-- The last coordinate of the range [v, v + n − 1]. -/
def rangeEnd (v n : U16) : U16 := v + n - 1

/-- A command and the words it carries, as (D/CX, payload) pairs. -/
def commandWords (c : Byte) (bs : List Byte) : List (Bool × Byte) := (false, c) :: bs.map (true, ·)

/-- The words of COLUMN or PAGE over the range [v0, v1] (R102). -/
def rangeWords (c : Byte) (v0 v1 : U16) : List (Bool × Byte) := commandWords c (bytesOf v0 ++ bytesOf v1)

/-- The two data words of a 16-bit value (R91). -/
def dataWords16 (v : U16) : List (Bool × Byte) := [(true, hiByte v), (true, loByte v)]

/-! ### Calibration targets -/

/-- The reference point L(i), at the 0° dimensions (R232). -/
def refPoint (i : Nat) : RawPoint :=
  match i with
  | 0 => { x := BitVec.ofNat 16 Config.calMargin, y := BitVec.ofNat 16 Config.calMargin }
  | 1 => { x := BitVec.ofNat 16 (Config.lcdWidth - Config.calMargin), y := BitVec.ofNat 16 (Config.lcdHeight / 2) }
  | _ => { x := BitVec.ofNat 16 (Config.lcdWidth / 2), y := BitVec.ofNat 16 (Config.lcdHeight - Config.calMargin) }

/-- The square of side `s` centred on a target (R233). -/
def squareAt (p : RawPoint) (s : Nat) : Rect :=
  { x := p.x - BitVec.ofNat 16 (s / 2), y := p.y - BitVec.ofNat 16 (s / 2), w := BitVec.ofNat 16 s, h := BitVec.ofNat 16 s }

/-- The four squares of a crosshair, with their colours, in drawing order (R233; `CROSS_SIDES` of R7). -/
def crosshairSquares (p : RawPoint) (fg bg : U16) : List (Rect × U16) :=
  [(squareAt p 20, fg), (squareAt p 18, bg), (squareAt p 8, fg), (squareAt p 6, bg)]

/-- The raw points with point `i` replaced (R231). -/
def CalPoints.set (t : CalPoints) (i : Nat) (p : RawPoint) : CalPoints :=
  match i with
  | 0 => { t with p0 := p }
  | 1 => { t with p1 := p }
  | _ => { t with p2 := p }

/-! ### Touch values -/

/-- The pressure of two 8-bit readings, exact in 8 bits (R203). -/
def pressure (z1 z2 : Byte) : Byte := (z1 &&& 0x7F) + ((255 - z2) &&& 0x7F)

/-- The 10-bit value `(a << 2) | (b >> 6)` (R109, R205). -/
def axisValue (a b : Byte) : U16 := (a.setWidth 16 <<< 2) ||| (b.setWidth 16 >>> 6)

end Sys2Proof.Machine
end

