-- ==== Sys2Proof/Machine/Flags.lean ====
section
/-! DEFINITION. The block has no condition codes (R33). Here stand the tests its operations decide by: the operating
modes (R308), the pin levels and the bits clocked on them (R24, R65), the touch tests (R204, R205), the clamps (R269,
R270). -/

namespace Sys2Proof.Machine

/-! ### Modes (R308) -/

/-- A host or composite bracket is open: the display chip-select is asserted. -/
def State.bracketOpen (s : State) : Bool := !s.st.dcsN

/-- Touch sampling: the touch chip-select is asserted and the ADC listens. -/
def State.touchSampling (s : State) : Bool := !s.st.tcsN

/-- Bit-bang mode: the serial engine is off. -/
def State.bitBang (s : State) : Bool := !s.st.spe

/-- Stuck: a fault is recorded (R303). -/
def State.faulted (s : State) : Bool := s.st.fault.isSome

/-- Calibrating: TOUCH_CALIBRATE is polling. -/
def State.calibrating (s : State) : Bool :=
  match s.activity with
  | .polling _ _ => true
  | _ => false

/-! ### Pin levels (R24), and the bits clocked on them (R65) -/

/-- What decides the levels and the bits on the bus: the engine's enable, the two latches, the bit order (R24, R25). -/
structure Line where
  spe   : Bool
  mosi  : Bool
  sck   : Bool
  order : BitOrder
  deriving DecidableEq, Repr

/-- The line of a state. -/
def State.line (s : State) : Line :=
  { spe := s.st.spe, mosi := s.st.mosiLatch, sck := s.st.sckLatch, order := s.st.order }

/-- The level on SCK while no exchange runs: the latch in bit-bang mode, else the engine's idle level 0 (D4, D5). -/
def Line.sckPin (l : Line) : Bool := if l.spe then false else l.sck

/-- The level on SCK in a state. -/
def State.sckPin (s : State) : Bool := s.line.sckPin

/-- The level the block drives on MOSI in bit-bang mode; `none` while the engine drives it (D4). -/
def State.mosiPin (s : State) : Option Bool := if s.st.spe then none else some s.st.mosiLatch

/-- How an event of the record moves the line. ORDER is INIT's serial configuration, which also enables the engine (R24,
R331). -/
def Line.after (l : Line) (e : WireEvent) : Line :=
  match e with
  | .mosi v => { l with mosi := v }
  | .sck v => { l with sck := v }
  | .spe v => { l with spe := v }
  | .order o => { l with order := o, spe := true }
  | .csd _ | .cst _ | .rst _ | .wait _ | .div _ | .x8 _ _ => l

/-- The bits of a byte in the order the engine shifts them, in and out: bit 7 first when MSB first (R65). LSB first is
the other way round, by its name; no operation selects it (R25, D42; assumption 38). -/
def serialBits (o : BitOrder) (b : Byte) : List Bool :=
  let bits := [b.getLsbD 7, b.getLsbD 6, b.getLsbD 5, b.getLsbD 4, b.getLsbD 3, b.getLsbD 2, b.getLsbD 1, b.getLsbD 0]
  match o with
  | .msbFirst => bits
  | .lsbFirst => bits.reverse

/-- The bits an event clocks, each one sent with the one received: the eight of an exchange in the engine's order (R65);
the MOSI latch, with nothing received, on a rising edge of SCK that is not the engine's (R131). -/
def Line.bits (l : Line) (e : WireEvent) : List (Bool × Option Bool) :=
  match e with
  | .x8 o i => (serialBits l.order o).zip ((serialBits l.order i).map some)
  | .csd _ | .cst _ | .rst _ | .wait _ | .div _ | .order _ | .mosi _ | .sck _ | .spe _ =>
    if !l.sckPin && (l.after e).sckPin then [((l.after e).mosi, none)] else []

/-- The bits a record, oldest event first, clocks on the bus from line `l` on. -/
def Line.clocked : Line → List WireEvent → List (Bool × Option Bool)
  | _, [] => []
  | l, e :: es => l.bits e ++ Line.clocked (l.after e) es

/-- The bits of a word in wire order: D/CX, then the payload from bit 7 to bit 0 (R65). -/
def wireBits (dcx : Bool) (b : Byte) : List Bool := dcx :: serialBits .msbFirst b

/-! ### Touch tests -/

/-- A pressure over the threshold: 5 is no touch, 6 goes on (R204). -/
def pressed (p : Byte) : Bool := decide (Config.requiredPressure < p.toNat)

/-- The agreement filter: the value where the two high bytes agree, else 0 (R205). -/
def agreed (a1 a2 b2 : Byte) : U16 := if a1 = a2 then axisValue a2 b2 else 0

/-! ### Clamps -/

/-- `CLAMP_U32`: the 16-bit wraparound test (R269). -/
def clampU32 (q : BitVec 32) (dim : Nat) : U16 :=
  let v : U16 := q.setWidth 16
  if v.toNat ≥ 2 * dim then 0
  else if v.toNat ≥ dim then BitVec.ofNat 16 (dim - 1)
  else v

/-- `CLAMP_S64`: the signed range test (R270). -/
def clampS64 (q : Int) (dim : Nat) : U16 :=
  if q < 0 then 0
  else if q ≥ dim then BitVec.ofNat 16 (dim - 1)
  else BitVec.ofInt 16 q

end Sys2Proof.Machine
end

