-- ==== Sys2Proof/Machine/Ops.lean ====
section
/-! DEFINITION. The named operations every meaning is built from: state writes with their events (R23 to R25, R60), the
fault (R303), the prelude (R304), the word (R130 to R133), chip-select brackets, the exchanges of the bus (R66). -/

namespace Sys2Proof.Machine

/-- What a meaning answers. -/
abbrev Answer := Host.Outcome State Fault Refusal

/-! ### State writes -/

/-- `Emit(e)` (R60). The record is kept newest first. -/
def State.emit (e : WireEvent) (s : State) : State := { s with wireRev := e :: s.wireRev }

/-- The wire record, oldest event first (R60). -/
def State.wire (s : State) : List WireEvent := s.wireRev.reverse

/-- `st.dcs_n <- v ; Emit(CSD(v))` (R23). -/
def State.writeDcs (v : Bool) (s : State) : State := State.emit (.csd v) { s with st := { s.st with dcsN := v } }

/-- `st.tcs_n <- v ; Emit(CST(v))` (R23). -/
def State.writeTcs (v : Bool) (s : State) : State := State.emit (.cst v) { s with st := { s.st with tcsN := v } }

/-- `st.rst_n <- v ; Emit(RST(v))` (R23); the level going from 0 to 1 ends a reset pulse, which makes the controller
unknown (R79). -/
def State.writeRst (v : Bool) (s : State) : State :=
  let t := State.emit (.rst v) { s with st := { s.st with rstN := v } }
  if v && !s.st.rstN then { t with ctl := Ctl.afterReset (Config.freeCtl s.draws), draws := s.draws + 1 } else t

/-- `st.div <- k ; Emit(DIV(k))` (R25). -/
def State.writeDiv (k : DivCode) (s : State) : State := State.emit (.div k) { s with st := { s.st with div := k } }

/-- `st.order <- o ; Emit(ORDER(o))` (R25). -/
def State.writeOrder (o : BitOrder) (s : State) : State :=
  State.emit (.order o) { s with st := { s.st with order := o } }

/-- The MOSI latch written (R24). -/
def State.writeMosi (v : Bool) (s : State) : State := State.emit (.mosi v) { s with st := { s.st with mosiLatch := v } }

/-- The SCK latch written (R24). -/
def State.writeSck (v : Bool) (s : State) : State := State.emit (.sck v) { s with st := { s.st with sckLatch := v } }

/-- The serial-engine enable written (R24). -/
def State.writeSpe (v : Bool) (s : State) : State := State.emit (.spe v) { s with st := { s.st with spe := v } }

/-- The outcome of the operation (R300). -/
def State.setResult (r : OpResult) (s : State) : State := { s with result := some r }

/-! ### Faults -/

/-- `raise Fault(code)` (R303): recorded if none is, the operation over with outcome FAULTED, nothing rolled back. -/
def State.raise (code : FaultCode) (s : State) : State :=
  { s with
    st := { s.st with fault := match s.st.fault with | none => some code | some c => some c }
    result := some (.faulted code), activity := .idle }

/-- What part of an operation comes to: it goes on, or a fault ended the operation. -/
inductive Flow where
  | go (s : State)
  | stop (s : State)
  deriving DecidableEq, Repr

/-- The next part of an operation, where the part before it goes on. -/
def Flow.andThen (f : Flow) (k : State → Flow) : Flow :=
  match f with
  | .go s => k s
  | .stop s => .stop s

/-- A next part that cannot fault. -/
def Flow.map (f : Flow) (k : State → State) : Flow :=
  match f with
  | .go s => .go (k s)
  | .stop s => .stop s

/-- The state an operation ends in. -/
def Flow.final : Flow → State
  | .go s => s
  | .stop s => s

/-- `raise` as part of an operation. -/
def fail (code : FaultCode) (s : State) : Flow := .stop (s.raise code)

/-- How the prelude treats an operation (R304): INIT, a batch operation, any other. -/
inductive OpClass where
  | init
  | batch
  | plain
  deriving DecidableEq, Repr

/-- The first three checks of the prelude, in order, then the body (R304). The fourth, an identifier with no
operation, is `unknownOp`. -/
def hostOp (k : OpClass) (body : State → Flow) (s : State) : State :=
  match s.st.fault with
  | some c => s.setResult (.faulted c)
  | none =>
    if k ≠ .init ∧ s.st.initDone = false then s.raise .notInit
    else if s.st.inBatch = true ∧ k ≠ .batch then s.raise .batch
    else (body s).final

/-- A host operation with no results: outcome OK where its body goes through. -/
def plainOp (k : OpClass) (body : State → Flow) (s : State) : State :=
  hostOp k (fun t => (body t).map (State.setResult .ok)) s

/-- The prelude's fourth check: an identifier that spells no operation (R304, R118). -/
def unknownOp (s : State) : State := hostOp .plain (fail .refused) s

/-- A part of an operation run as a step of its own: nothing happens in a stuck block (R303, assumption 28). -/
def stepOp (body : State → Flow) (s : State) : State :=
  match s.st.fault with
  | some c => { s with result := some (.faulted c), activity := .idle }
  | none => (body s).final

/-! ### The word -/

/-- `PREBIT(dcx)`: the five writes, in order (R131, R72). -/
def preBit (dcx : Bool) (s : State) : State :=
  State.writeSpe true (State.writeSck true (State.writeSpe false (State.writeSck false (State.writeMosi dcx s))))

/-- The states a pre-bit passes through, the first and the last included (R131). -/
def preBitStates (dcx : Bool) (s : State) : List State :=
  let s1 := State.writeMosi dcx s
  let s2 := State.writeSck false s1
  let s3 := State.writeSpe false s2
  let s4 := State.writeSck true s3
  [s, s1, s2, s3, s4, State.writeSpe true s4]

/-- One exchange of the bus that received `r`: the event, and one draw used (R66). The bits it clocks, in the order
`st.order` gives, are `Line.bits` of the event (R65). -/
def exchanged (o r : Byte) (s : State) : State := { State.emit (.x8 o r) s with draws := s.draws + 1 }

/-- `PAYLOAD(b)`: the byte received is a free value and is discarded (R132, R111). -/
def payload (b : Byte) (s : State) : State := exchanged b (Config.freeByte s.draws) s

/-- The controller receives the word while the chip-select is asserted (R73, R133). -/
def deliver (dcx : Bool) (b : Byte) (s : State) : State :=
  if s.st.dcsN then s else { s with ctl := s.ctl.word dcx b }

/-- A word with its chip-select asserted: pre-bit, payload, reception (R130). -/
def sendWord (dcx : Bool) (b : Byte) (s : State) : State := deliver dcx b (payload b (preBit dcx s))

/-- `WORD(dcx, b)` (R133). -/
def word (dcx : Bool) (b : Byte) (s : State) : Flow :=
  if s.st.dcsN then fail .bracket s else .go (sendWord dcx b s)

/-- Words in order. -/
def words : List (Bool × Byte) → State → Flow
  | [], s => .go s
  | w :: ws, s => (word w.1 w.2 s).andThen (words ws)

/-- One bracket of its own: `OPEN`, the words, `CLOSE` (41_display_ops.md). -/
def bracketed (ws : List (Bool × Byte)) (s : State) : Flow :=
  (words ws (State.writeDcs false s)).map (State.writeDcs true)

/-- `REQUIRE_NO_BRACKET` (41_display_ops.md). -/
def requireNoBracket (body : State → Flow) (s : State) : Flow :=
  if s.st.dcsN then body s else fail .bracket s

/-! ### The two levels of the record (R60, R133) -/

/-- The pin-level expansion of a word whose payload exchange received `r` (R133). -/
def wordExpansion (dcx : Bool) (b r : Byte) : List WireEvent :=
  [.mosi dcx, .sck false, .spe false, .sck true, .spe true, .x8 b r]

/-- A word-level record at pin level, the received bytes being the free values from number `d` on. -/
def expand : List WordEvent → Nat → List WireEvent
  | [], _ => []
  | .w9 dcx b :: es, d => wordExpansion dcx b (Config.freeByte d) ++ expand es (d + 1)
  | .ev e :: es, d => e :: expand es d

/-- A pin-level record at word level: each word's expansion becomes one event (R133). -/
def collapse : List WireEvent → List WordEvent
  | .mosi dcx :: .sck false :: .spe false :: .sck true :: .spe true :: .x8 b _ :: es => .w9 dcx b :: collapse es
  | e :: es => .ev e :: collapse es
  | [] => []

/-! ### The touch exchange -/

/-- The byte a touch exchange receives: the answer the outside fixed, where the ADC listens and one is fixed, else a
free value (R80, assumption 12). -/
def adcAnswer (s : State) : Byte :=
  if s.st.tcsN then Config.freeByte s.draws
  else
    match s.adc with
    | b :: _ => b
    | [] => Config.freeByte s.draws

/-- `Xfer(o)` on the touch bus (R66, R80): a plain 8-bit exchange with no pre-bit (D7). R66 gives it with the engine on;
DESIGN CHOICE (assumption 37): with the engine off, as before INIT, it runs all the same. -/
def touchXfer (o : Byte) (s : State) : State :=
  exchanged o (adcAnswer s) { s with adc := if s.st.tcsN then s.adc else s.adc.tail }

end Sys2Proof.Machine
end

