-- ==== Sys2Proof/Machine/Display.lean ====
section
/-! DEFINITION. The display command sequences (R160 to R170): bodies shared with INIT and TOUCH_CALIBRATE, then the
host operations. -/

namespace Sys2Proof.Machine

/-- `SET_AREA(x0, y0, x1, y1)`: COLUMN and PAGE, each in a bracket of its own (R160). -/
def setArea (x0 y0 x1 y1 : U16) (s : State) : Flow :=
  (bracketed (rangeWords 0x2A x0 x1) s).andThen (bracketed (rangeWords 0x2B y0 y1))

/-- BATCH_START's body (R161). -/
def batchStartBody (x y w h : U16) (s : State) : Flow :=
  requireNoBracket (fun s =>
    if rangeOk x w && rangeOk y h then
      ((((setArea x y (rangeEnd x w) (rangeEnd y h) s).map (State.writeDcs false)).andThen (word false 0x2C)).map
        (fun t => { t with st := { t.st with inBatch := true } }))
    else fail .badOperand s) s

/-- BATCH_DRAW's body (R162). -/
def batchDrawBody (c : U16) (s : State) : Flow :=
  if s.st.inBatch then words (dataWords16 c) s else fail .batch s

/-- BATCH_STOP's body (R163). -/
def batchStopBody (s : State) : Flow :=
  if s.st.inBatch then
    .go { State.writeDcs true s with st := { (State.writeDcs true s).st with inBatch := false } }
  else fail .batch s

/-- BATCH_DRAW(c), `n` times. -/
def drawTimes (c : U16) : Nat → State → Flow
  | 0, s => .go s
  | n + 1, s => (batchDrawBody c s).andThen (drawTimes c n)

/-- A whole batch of `n` pixels of one colour. -/
def solidBatch (r : Rect) (c : U16) (n : Nat) (s : State) : Flow :=
  ((batchStartBody r.x r.y r.w r.h s).andThen (drawTimes c n)).andThen batchStopBody

/-- DRAW_PIXEL's body: a silent no-op out of range, else a batch of one (R164). -/
def drawPixelBody (x y c : U16) (s : State) : Flow :=
  requireNoBracket (fun s =>
    if s.st.width.toNat ≤ x.toNat ∨ s.st.height.toNat ≤ y.toNat then .go s
    else solidBatch { x := x, y := y, w := 1, h := 1 } c 1 s) s

/-- FILL_RECT's body, `FILL_RECT_I`: clamp, then a batch of w·h pixels; an empty size is a silent no-op (R166). -/
def fillRectBody (r : Rect) (c : U16) (s : State) : Flow :=
  requireNoBracket (fun s =>
    let q := clampRect s.st.width s.st.height r
    if q.w = 0 ∨ q.h = 0 then .go s
    else solidBatch q c (q.w.toNat * q.h.toNat) s) s

/-- FILL_SCREEN's body, `FILL_SCREEN_I` (R167). -/
def fillScreenBody (c : U16) (s : State) : Flow :=
  requireNoBracket (fun s =>
    solidBatch { x := 0, y := 0, w := s.st.width, h := s.st.height } c (s.st.width.toNat * s.st.height.toNat) s) s

/-- The words and the writes of SET_ORIENTATION for a legal orientation (R168). -/
def applyOrientation (o : Orientation) (s : State) : Flow :=
  (((bracketed (commandWords 0x36 [orientMadctl o.byte])
      { s with st := { s.st with width := orientWidth o.byte, height := orientHeight o.byte } }).andThen
    (fun t => setArea 0 0 (t.st.width - 1) (t.st.height - 1) t)).map
    (fun t => { t with st := { t.st with orient := o } }))

/-- SET_ORIENTATION's body, `SET_ORIENTATION_I`: a reserved value faults (R168, R100). -/
def setOrientationBody (o : Byte) (s : State) : Flow :=
  requireNoBracket (fun s =>
    match Orientation.ofByte o with
    | some q => applyOrientation q s
    | none => fail .badOperand s) s

/-- SET_INVERTED's body: INV_ON for 1, INV_OFF for 0 (R169, C5). -/
def setInvertedBody (inv : Bool) (s : State) : Flow :=
  requireNoBracket (bracketed (commandWords (if inv then 0x21 else 0x20) [])) s

/-- BATCH_START x, y, w, h (R161). -/
def execBatchStart (x y w h : U16) (s : State) : Answer := .next (plainOp .plain (batchStartBody x y w h) s)

/-- BATCH_DRAW c (R162). -/
def execBatchDraw (c : U16) (s : State) : Answer := .next (plainOp .batch (batchDrawBody c) s)

/-- BATCH_STOP (R163). -/
def execBatchStop (s : State) : Answer := .next (plainOp .batch batchStopBody s)

/-- DRAW_PIXEL x, y, c (R164). -/
def execDrawPixel (x y c : U16) (s : State) : Answer := .next (plainOp .plain (drawPixelBody x y c) s)

/-- FILL_RECT x, y, w, h, c (R166). -/
def execFillRect (x y w h c : U16) (s : State) : Answer :=
  .next (plainOp .plain (fillRectBody { x := x, y := y, w := w, h := h } c) s)

/-- FILL_SCREEN c (R167). -/
def execFillScreen (c : U16) (s : State) : Answer := .next (plainOp .plain (fillScreenBody c) s)

/-- SET_ORIENTATION o (R168). -/
def execSetOrientation (o : Byte) (s : State) : Answer := .next (plainOp .plain (setOrientationBody o) s)

/-- SET_INVERTED inv (R169). -/
def execSetInverted (inv : Bool) (s : State) : Answer := .next (plainOp .plain (setInvertedBody inv) s)

/-- SET_BRIGHTNESS pct: after the prelude it always raises F_REFUSED, with no other effect (R170). -/
def execSetBrightness (_pct : Byte) (s : State) : Answer := .next (plainOp .plain (fail .refused) s)

end Sys2Proof.Machine
end

