-- ==== Sys2Proof/Machine/Touch.lean ====
section
/-! DEFINITION. Touch-ADC sampling (R200 to R212): the conversions, the four command bytes as instructions, the raw
read. -/

namespace Sys2Proof.Machine

/-- `SAMPLE8(cmd)`: the command exchange, then one read exchange (R202). -/
def sample8 (cmd : Byte) (s : State) : Byte × State :=
  let s1 := touchXfer cmd s
  (adcAnswer s1, touchXfer s.params.touchFill s1)

/-- `SAMPLE_AXIS(cmd)`: two 12-bit samples and the agreement filter (R205). -/
def sampleAxis (cmd : Byte) (s : State) : U16 × State :=
  let fill := s.params.touchFill
  let s1 := touchXfer cmd s
  let a1 := adcAnswer s1
  let s3 := touchXfer fill (touchXfer fill s1)
  let s4 := touchXfer cmd s3
  let a2 := adcAnswer s4
  let s5 := touchXfer fill s4
  (agreed a1 a2 (adcAnswer s5), touchXfer fill s5)

/-- `SETUP` (R201). -/
def touchSetup (s : State) : State := State.writeTcs false (State.writeDiv s.params.div8 s)

/-- `TEARDOWN`, on every exit (R208). -/
def touchTeardown (s : State) : State :=
  let t := State.writeTcs true s
  State.writeDiv t.st.dispDiv t

/-- What a raw sample comes to. -/
inductive Sampled where
  | conflict (s : State)
  | noTouch (s : State)
  | touch (p : Byte) (tx ty : U16) (s : State)
  deriving DecidableEq, Repr

/-- The Y part of a raw sample (R207, R209). -/
def sampleY (p : Byte) (tx : U16) (s : State) : Sampled :=
  let y := sampleAxis touchByteY s
  if y.1 = 0 then .noTouch (touchTeardown y.2) else .touch p tx y.1 (touchTeardown y.2)

/-- The X part of a raw sample (R206). -/
def sampleX (p : Byte) (s : State) : Sampled :=
  let x := sampleAxis touchByteX s
  if x.1 = 0 then .noTouch (touchTeardown x.2) else sampleY p x.1 x.2

/-- `RAW_SAMPLE` (R200). -/
def rawSample (s : State) : Sampled :=
  if s.st.dcsN then
    let z1 := sample8 touchByteZ1 (touchSetup s)
    let z2 := sample8 touchByteZ2 z1.2
    let p := pressure z1.1 z2.1
    if pressed p then sampleX p z2.2 else .noTouch (touchTeardown z2.2)
  else .conflict (s.raise .busConflict)

/-- A touch command run as a step of its own: its conversion, the value it read as the result. With the display
chip-select asserted it is a bus conflict (R81, R343; assumption 29). -/
def touchStep (conversion : State → U16 × State) (s : State) : Flow :=
  if s.st.dcsN then .go ((conversion s).2.setResult (.sample (conversion s).1)) else fail .busConflict s

/-- An 8-bit conversion, its value zero-extended. -/
def conversion8 (cmd : Byte) (s : State) : U16 × State := ((sample8 cmd s).1.setWidth 16, (sample8 cmd s).2)

/-- TOUCH_Z1 (0xB8): SAMPLE8 of channel Z1 (R108, R202). -/
def execTouchZ1 (s : State) : Answer := .next (stepOp (touchStep (conversion8 touchByteZ1)) s)

/-- TOUCH_Z2 (0xC8): SAMPLE8 of channel Z2 (R108, R202). -/
def execTouchZ2 (s : State) : Answer := .next (stepOp (touchStep (conversion8 touchByteZ2)) s)

/-- TOUCH_X (0xD0): SAMPLE_AXIS of channel X (R108, R205). -/
def execTouchX (s : State) : Answer := .next (stepOp (touchStep (sampleAxis touchByteX)) s)

/-- TOUCH_Y (0x90): SAMPLE_AXIS of channel Y (R108, R205). -/
def execTouchY (s : State) : Answer := .next (stepOp (touchStep (sampleAxis touchByteY)) s)

/-- TOUCH_RAW_READ's body: the staleness cache is not written (R200, R209). -/
def touchRawBody (s : State) : Flow :=
  match rawSample s with
  | .conflict t => .stop t
  | .noTouch t => .go (t.setResult .noTouch)
  | .touch p tx ty t => .go (t.setResult (.raw p tx ty))

/-- TOUCH_RAW_READ (R200). -/
def execTouchRawRead (s : State) : Answer := .next (hostOp .plain touchRawBody s)

end Sys2Proof.Machine
end

