-- ==== Sys2Proof/Machine/Calibrate.lean ====
section
/-! DEFINITION. Three-point calibration (R230 to R246). TOUCH_CALIBRATE's exec draws the first target; each step then
is one poll, a complete raw sample (R234, R314; assumption 1). -/

namespace Sys2Proof.Machine

/-! ### Coefficients (R237) -/

/-- The seven values of R237 in a type of numbers. -/
structure Coeffs (α : Type) where
  a : α
  b : α
  c : α
  d : α
  e : α
  f : α
  div : α
  deriving DecidableEq, Repr

/-- Three points with coordinates in a type of numbers. -/
structure Triple (α : Type) where
  x0 : α
  y0 : α
  x1 : α
  y1 : α
  x2 : α
  y2 : α

/-- `COMPUTE_CAL`: the formulas of R237 over any arithmetic; `l` the screen points, `t` the raw points. -/
def coeffs {α : Type} [Add α] [Sub α] [Mul α] (l t : Triple α) : Coeffs α :=
  { div := (t.x0 - t.x2) * (t.y1 - t.y2) - (t.x1 - t.x2) * (t.y0 - t.y2)
    a := (l.x0 - l.x2) * (t.y1 - t.y2) - (l.x1 - l.x2) * (t.y0 - t.y2)
    b := (t.x0 - t.x2) * (l.x1 - l.x2) - (l.x0 - l.x2) * (t.x1 - t.x2)
    c := (t.x2 * l.x1 - t.x1 * l.x2) * t.y0 + (t.x0 * l.x2 - t.x2 * l.x0) * t.y1
      + (t.x1 * l.x0 - t.x0 * l.x1) * t.y2
    d := (l.y0 - l.y2) * (t.y1 - t.y2) - (l.y1 - l.y2) * (t.y0 - t.y2)
    e := (t.x0 - t.x2) * (l.y1 - l.y2) - (l.y0 - l.y2) * (t.x1 - t.x2)
    f := (t.x2 * l.y1 - t.x1 * l.y2) * t.y0 + (t.x0 * l.y2 - t.x2 * l.y0) * t.y1
      + (t.x1 * l.y0 - t.x0 * l.y1) * t.y2 }

/-- Three points with each coordinate converted. -/
def tripleOf {α : Type} (conv : U16 → α) (t : CalPoints) : Triple α :=
  { x0 := conv t.p0.x, y0 := conv t.p0.y, x1 := conv t.p1.x, y1 := conv t.p1.y, x2 := conv t.p2.x, y2 := conv t.p2.y }

/-- A coordinate zero-extended to an exact integer (R239). -/
def exactCoord (v : U16) : Int := (v.toNat : Int)

/-- A coordinate zero-extended to 32 bits (R238). -/
def u32Coord (v : U16) : BitVec 32 := v.setWidth 32

/-- The three reference points (R232). -/
def refPoints : CalPoints := { p0 := refPoint 0, p1 := refPoint 1, p2 := refPoint 2 }

/-- R237 in exact integers (R239). -/
def coeffsExact (t : CalPoints) : Coeffs Int := coeffs (tripleOf exactCoord refPoints) (tripleOf exactCoord t)

/-- R237 modulo 2^32 (R238). -/
def coeffsU32 (t : CalPoints) : Coeffs (BitVec 32) := coeffs (tripleOf u32Coord refPoints) (tripleOf u32Coord t)

/-- The seven words, each value made a 64-bit word. -/
def wordsOf {α : Type} (conv : α → BitVec 64) (k : Coeffs α) : CalWords :=
  { a := conv k.a, b := conv k.b, c := conv k.c, d := conv k.d, e := conv k.e, f := conv k.f, cdiv := conv k.div }

/-- `COMPUTE_CAL` under `CAL_ARITH` (R237 to R239). -/
def computeCal (arith : CalArith) (t : CalPoints) : CalWords :=
  match arith with
  | .s64 => wordsOf (BitVec.ofInt 64) (coeffsExact t)
  | .u32 => wordsOf (BitVec.setWidth 64) (coeffsU32 t)

/-! ### The procedure (R231) -/

/-- Rectangles filled in order. -/
def fillAll : List (Rect × U16) → State → Flow
  | [], s => .go s
  | (r, c) :: rest, s => (fillRectBody r c s).andThen (fillAll rest)

/-- `CROSSHAIR` (R233). -/
def crosshair (p : RawPoint) (fg bg : U16) (s : State) : Flow := fillAll (crosshairSquares p fg bg) s

/-- `ACK` (R235). -/
def acknowledge (p : RawPoint) (fg bg : U16) (s : State) : Flow :=
  fillRectBody (Config.ackRect p.x p.y) (Config.ackColour fg bg) s

/-- TOUCH_CALIBRATE up to its first poll (R231). -/
def calibrateBody (fg bg : U16) (s : State) : Flow :=
  requireNoBracket (fun s =>
    (((setOrientationBody Orientation.deg0.byte { s with st := { s.st with calSaved := s.st.orient } }).map
      (fun t => { t with st := { t.st with calI := 0 } })).andThen (crosshair (refPoint 0) fg bg)).map
      (fun t => { t with activity := .polling fg bg, result := none })) s

/-- `COMMIT(W)` (R240, R242). -/
def commitCal (w : CalWords) (s : State) : State :=
  { s with st := { s.st with cal := w, calibrated := true, lastTx := 0, lastTy := 0 } }

/-- The end of the procedure: the orientation restored on both outcomes, then the commit or the failure (R240, R241). -/
def finishCal (s : State) : Flow :=
  let w := computeCal s.params.calArith s.st.calT
  (setOrientationBody s.st.calSaved.byte { s with st := { s.st with calI := 3 } }).map (fun t =>
    if w.cdiv = 0 then { t with activity := .idle, result := some .calFailed }
    else { commitCal w t with activity := .idle, result := some .ok })

/-- What follows a valid poll of point `i`: record it, acknowledge, clear, then the next target or the end (R231). -/
def acceptPoint (fg bg : U16) (i : Nat) (tx ty : U16) (s : State) : Flow :=
  ((acknowledge (refPoint i) fg bg { s with st := { s.st with calT := s.st.calT.set i { x := tx, y := ty } } }).andThen
    (fillScreenBody bg)).andThen
    (fun t =>
      if i < 2 then crosshair (refPoint (i + 1)) fg bg { t with st := { t.st with calI := i + 1 } } else finishCal t)

/-- One iteration of `POLL_RAW` (R234). -/
def pollBody (fg bg : U16) (s : State) : Flow :=
  match rawSample s with
  | .conflict t => .stop t
  | .noTouch t => .go t
  | .touch _ tx ty t => acceptPoint fg bg t.st.calI tx ty t

/-- The step of a calibration that is polling. -/
def pollStep (fg bg : U16) (s : State) : Answer :=
  if s.st.calI ≤ 2 then .next (stepOp (pollBody fg bg) s) else .fault .calIndexOutOfRange

/-- TOUCH_CALIBRATE fg, bg (R230). -/
def execTouchCalibrate (fg bg : U16) (s : State) : Answer := .next (hostOp .plain (calibrateBody fg bg) s)

end Sys2Proof.Machine
end

