-- ==== Sys2Proof/Machine/Framer.lean ====
section
/-! DEFINITION. Chip-select brackets and word senders (R134 to R138). -/

namespace Sys2Proof.Machine

/-- BEGIN's body: brackets do not nest (R134). -/
def beginBody (s : State) : Flow := if s.st.dcsN then .go (State.writeDcs false s) else fail .bracket s

/-- END's body (R135). -/
def endBody (s : State) : Flow := if s.st.dcsN then fail .bracket s else .go (State.writeDcs true s)

/-- BEGIN (R134). -/
def execBeginTx (s : State) : Answer := .next (plainOp .plain beginBody s)

/-- END (R135). -/
def execEndTx (s : State) : Answer := .next (plainOp .plain endBody s)

/-- SEND_CMD b (R136). -/
def execSendCmd (b : Byte) (s : State) : Answer := .next (plainOp .plain (word false b) s)

/-- SEND_DATA b (R137). -/
def execSendData (b : Byte) (s : State) : Answer := .next (plainOp .plain (word true b) s)

/-- SEND_DATA16 v: the high byte, then the low byte (R138). -/
def execSendData16 (v : U16) (s : State) : Answer := .next (plainOp .plain (words (dataWords16 v)) s)

end Sys2Proof.Machine
end

