-- ==== Sys2Proof/Machine/Init.lean ====
section
/-! DEFINITION. INIT (R330 to R335) and the init-program instructions (R140). INIT runs in three parts: its exec does
everything up to DISPLAY_OFF and enters the init program at index 0; each step then runs one ROM instruction; after END
one step does the rest (assumption 1). -/

namespace Sys2Proof.Machine

/-- INIT's writes before any line is driven (R331). -/
def initFields (s : State) : State :=
  { s with st := { s.st with inBatch := false, calibrated := false, lastTx := 0, lastTy := 0
                             orient := .deg0, width := 320, height := 240 } }

/-- Step 2: the three lines inactive (R331). -/
def initLines (s : State) : State := State.writeRst true (State.writeTcs true (State.writeDcs true s))

/-- Step 3: the serial bus at divisor `k`, MSB first, the engine on with no pin event (R331, R24). -/
def initSerial (k : DivCode) (s : State) : State :=
  let t := State.writeOrder .msbFirst (State.writeDiv k { s with st := { s.st with dispDiv := k } })
  { t with st := { t.st with spe := true } }

/-- `RESET_PULSE` (R332). -/
def resetPulse (s : State) : State :=
  State.emit (.wait Config.tRstWait)
    (State.writeRst true (State.emit (.wait Config.tRstLow) (State.writeRst false s)))

/-- `RUN_INIT_PROGRAM` entered: the pointer at 0, each step one instruction (R140). -/
def enterInitProgram (s : State) : State :=
  { s with st := { s.st with ip := 0 }, activity := .initProgram, result := none }

/-- INIT up to the first instruction of the init program (R331 to R333). -/
def initBody (k : DivCode) (s : State) : Flow :=
  ((word false 0x28 (State.writeDcs false (resetPulse (initSerial k (initLines (initFields s)))))).map enterInitProgram)

/-- INIT after the init program: DISPLAY_ON, the bracket closed, the screen cleared, initialised (R331, R333, R334). -/
def initTailBody (s : State) : Flow :=
  (((word false 0x29 s).map (State.writeDcs true)).andThen (fillScreenBody 0x0000)).map
    (fun t => { t with st := { t.st with initDone := true }, activity := .idle, result := some .ok })

/-- The step after END. -/
def initTailStep (s : State) : State := stepOp initTailBody s

/-- The next ROM byte read and the pointer advanced, or the fault of running off the end (R140, R62). -/
def readRom (k : Byte → State → Flow) (s : State) : Flow :=
  match s.rom.read s.st.ip with
  | some b => k b { s with st := { s.st with ip := s.st.ip + 1 } }
  | none => fail .badInitProgram s

/-- `repeat n times`: an operand byte read and sent as a word (R140). -/
def runBytes (dcx : Bool) : Nat → State → Flow
  | 0, s => .go s
  | n + 1, s => (readRom (fun b t => word dcx b t) s).andThen (runBytes dcx n)

/-- END of the init program: the interpreter returns to INIT (R140). -/
def endProgramBody (s : State) : Flow := .go { s with activity := .initTail }

/-- END (0xFF): the program is over (R94, R140). -/
def execEndProgram (s : State) : Answer := .next (stepOp endProgramBody s)

/-- DATA_RUN n: the next n ROM bytes as data words (R94, R140). -/
def execDataRun (n : BitVec 6) (s : State) : Answer := .next (stepOp (runBytes true n.toNat) s)

/-- CMD_RUN n: the next n ROM bytes as command words (R94, R140). -/
def execCmdRun (n : BitVec 6) (s : State) : Answer := .next (stepOp (runBytes false n.toNat) s)

/-- A reserved kind: F_BAD_INIT_PROGRAM, whatever the byte (R94, R140, D29). -/
def execReservedInit (_b : Byte) (s : State) : Answer := .next (stepOp (fail .badInitProgram) s)

/-- INIT k (R330). -/
def execInitBlock (k : DivCode) (s : State) : Answer := .next (hostOp .init (initBody k) s)

end Sys2Proof.Machine
end

