-- ==== Sys2Proof/Machine/Transform.lean ====
section
/-! DEFINITION. The calibrated read (R260 to R272). -/

namespace Sys2Proof.Machine

/-- A quotient under `CAL_ARITH = s64`: truncating toward zero (R267); by zero a free value (assumption 21). -/
def quotS64 (n d : Int) : Int := if d = 0 then Config.quotByZero n else Int.tdiv n d

/-- A quotient under `CAL_ARITH = u32`: unsigned floor division (R266); by zero a free value (assumption 21). -/
def quotU32 (n d : BitVec 32) : BitVec 32 :=
  if d = 0 then BitVec.ofInt 32 (Config.quotByZero (n.toNat : Int)) else n / d

/-- The exact numerator `u·tx + v·ty + w` of s64 words (R265). -/
def numeratorS64 (u v w : BitVec 64) (tx ty : U16) : Int :=
  u.toInt * (tx.toNat : Int) + v.toInt * (ty.toNat : Int) + w.toInt

/-- The numerator `u·tx + v·ty + w` modulo 2^32 (R265). -/
def numeratorU32 (u v w : BitVec 64) (tx ty : U16) : BitVec 32 :=
  u.setWidth 32 * tx.setWidth 32 + v.setWidth 32 * ty.setWidth 32 + w.setWidth 32

/-- One coordinate: numerator, division, clamp to `dim` (R265 to R270). -/
def transformAxis (arith : CalArith) (u v w cdiv : BitVec 64) (dim : Nat) (tx ty : U16) : U16 :=
  match arith with
  | .s64 => clampS64 (quotS64 (numeratorS64 u v w tx ty) cdiv.toInt) dim
  | .u32 => clampU32 (quotU32 (numeratorU32 u v w tx ty) (cdiv.setWidth 32)) dim

/-- `CLAMP(QX(tx, ty), DX)`, with `DX = 320` in every orientation (R268). -/
def transformX (arith : CalArith) (k : CalWords) (tx ty : U16) : U16 :=
  transformAxis arith k.a k.b k.c k.cdiv Config.lcdWidth tx ty

/-- `CLAMP(QY(tx, ty), DY)`, with `DY = 240` in every orientation (R268). -/
def transformY (arith : CalArith) (k : CalWords) (tx ty : U16) : U16 :=
  transformAxis arith k.d k.e k.f k.cdiv Config.lcdHeight tx ty

/-- `REMAP(o, sx, sy)` under logical dimensions `width` × `height` (R271). -/
def remap (o : Orientation) (width height sx sy : U16) : U16 × U16 :=
  match o with
  | .deg0 => (sx, sy)
  | .deg90 => (sy, height - sx)
  | .deg180 => (width - sx, height - sy)
  | .deg270 => (width - sy, sx)

/-- The x axis of the cache: kept where `CACHE_MODE` is per_axis and tx is unchanged (R263, R264). -/
def updateX (tx ty : U16) (s : State) : State :=
  if s.params.cacheMode = .perAxis ∧ tx = s.st.lastTx then s
  else { s with st := { s.st with sxC := transformX s.params.calArith s.st.cal tx ty, lastTx := tx } }

/-- The y axis of the cache (R263, R264). -/
def updateY (tx ty : U16) (s : State) : State :=
  if s.params.cacheMode = .perAxis ∧ ty = s.st.lastTy then s
  else { s with st := { s.st with syC := transformY s.params.calArith s.st.cal tx ty, lastTy := ty } }

/-- What follows a valid raw reading: pressure kept, cache, remap, result (R260, R272). -/
def acceptReading (p : Byte) (tx ty : U16) (s : State) : State :=
  let t := updateY tx ty (updateX tx ty { s with st := { s.st with lastP := p } })
  let q := remap t.st.orient t.st.width t.st.height t.st.sxC t.st.syC
  t.setResult (.point q.1 q.2)

/-- TOUCH_READ's body: not calibrated, no touch and no raw read (R260, R261, R262). -/
def touchReadBody (s : State) : Flow :=
  if s.st.calibrated then
    match rawSample s with
    | .conflict t => .stop t
    | .noTouch t => .go (t.setResult .noTouch)
    | .touch p tx ty t => .go (acceptReading p tx ty t)
  else .go (s.setResult .noTouch)

/-- TOUCH_READ (R260). -/
def execTouchRead (s : State) : Answer := .next (hostOp .plain touchReadBody s)

end Sys2Proof.Machine
end

