-- ==== Sys2Proof/Machine/WireWords.lean ====
section
/-! DEFINITION. The 9-bit word as an instruction (R90, R96): WORD(dcx, b) with the controller's reaction (R133, R74 to
R78). One definition for each row. A command with no other remark only changes the controller's command state; its
effect on the panel tuning is opaque (R74, D45). -/

namespace Sys2Proof.Machine

/-- C(b): a command word (R90). -/
def execCmd (b : Byte) (s : State) : Answer := .next (stepOp (word false b) s)

/-- D(b): a data word (R90). -/
def execData (b : Byte) (s : State) : Answer := .next (stepOp (word true b) s)

/-- NOP (0x00, R96). -/
def execNop (s : State) : Answer := .next (stepOp (word false 0x00) s)

/-- SLEEP_OUT (0x11, R96): the controller is awake (R74). -/
def execSleepOut (s : State) : Answer := .next (stepOp (word false 0x11) s)

/-- INV_OFF (0x20, R96): inversion is off (R74). -/
def execInvOff (s : State) : Answer := .next (stepOp (word false 0x20) s)

/-- INV_ON (0x21, R96): inversion is on (R74). -/
def execInvOn (s : State) : Answer := .next (stepOp (word false 0x21) s)

/-- GAMMA (0x26, R96). -/
def execGamma (s : State) : Answer := .next (stepOp (word false 0x26) s)

/-- DISPLAY_OFF (0x28, R96): the display is off (R74). -/
def execDisplayOff (s : State) : Answer := .next (stepOp (word false 0x28) s)

/-- DISPLAY_ON (0x29, R96): the display is on (R74). -/
def execDisplayOn (s : State) : Answer := .next (stepOp (word false 0x29) s)

/-- COLUMN (0x2A, R96): the next four data words set the columns (R75). -/
def execColumn (s : State) : Answer := .next (stepOp (word false 0x2A) s)

/-- PAGE (0x2B, R96): the next four data words set the rows (R75). -/
def execPage (s : State) : Answer := .next (stepOp (word false 0x2B) s)

/-- WRITE (0x2C, R96): the cursor goes to the window start and data words are pixels (R74, R76). -/
def execWrite (s : State) : Answer := .next (stepOp (word false 0x2C) s)

/-- MEMACCESS_CTRL (0x36, R96): the next data word is the MADCTL byte (R78). -/
def execMemAccessCtrl (s : State) : Answer := .next (stepOp (word false 0x36) s)

/-- PIXEL_FORMAT (0x3A, R96): the next data word is the pixel format (R78). -/
def execPixelFormat (s : State) : Answer := .next (stepOp (word false 0x3A) s)

/-- RGB_CTRL (0xB0, R96). -/
def execRgbCtrl (s : State) : Answer := .next (stepOp (word false 0xB0) s)

/-- FRAME_CTRL (0xB1, R96). -/
def execFrameCtrl (s : State) : Answer := .next (stepOp (word false 0xB1) s)

/-- DISPLAY_CTRL (0xB6, R96). -/
def execDisplayCtrl (s : State) : Answer := .next (stepOp (word false 0xB6) s)

/-- ENTRY_MODE (0xB7, R96). -/
def execEntryMode (s : State) : Answer := .next (stepOp (word false 0xB7) s)

/-- POWER_CTRL1 (0xC0, R96). -/
def execPowerCtrl1 (s : State) : Answer := .next (stepOp (word false 0xC0) s)

/-- POWER_CTRL2 (0xC1, R96). -/
def execPowerCtrl2 (s : State) : Answer := .next (stepOp (word false 0xC1) s)

/-- VCOM_CTRL1 (0xC5, R96). -/
def execVcomCtrl1 (s : State) : Answer := .next (stepOp (word false 0xC5) s)

/-- VCOM_CTRL2 (0xC7, R96). -/
def execVcomCtrl2 (s : State) : Answer := .next (stepOp (word false 0xC7) s)

/-- POWER_CTRLA (0xCB, R96). -/
def execPowerCtrlA (s : State) : Answer := .next (stepOp (word false 0xCB) s)

/-- POWER_CTRLB (0xCF, R96). -/
def execPowerCtrlB (s : State) : Answer := .next (stepOp (word false 0xCF) s)

/-- POS_GAMMA (0xE0, R96). -/
def execPosGamma (s : State) : Answer := .next (stepOp (word false 0xE0) s)

/-- NEG_GAMMA (0xE1, R96). -/
def execNegGamma (s : State) : Answer := .next (stepOp (word false 0xE1) s)

/-- DRV_TIMING_CTRLA (0xE8, R96). -/
def execDrvTimingCtrlA (s : State) : Answer := .next (stepOp (word false 0xE8) s)

/-- DRV_TIMING_CTRLB (0xEA, R96). -/
def execDrvTimingCtrlB (s : State) : Answer := .next (stepOp (word false 0xEA) s)

/-- POWERON_SEQ_CTRL (0xED, R96). -/
def execPowerOnSeqCtrl (s : State) : Answer := .next (stepOp (word false 0xED) s)

/-- ENABLE_3G (0xF2, R96). -/
def execEnable3G (s : State) : Answer := .next (stepOp (word false 0xF2) s)

/-- PUMP_RATIO_CTRL (0xF7, R96). -/
def execPumpRatioCtrl (s : State) : Answer := .next (stepOp (word false 0xF7) s)

end Sys2Proof.Machine
end

