-- ==== Sys2Proof/Machine/Dispatch.lean ====
section
/-! DEFINITION. The meaning of each instruction, one arm a constructor. -/

namespace Sys2Proof.Machine

/-- What an instruction does. -/
def exec (i : Instr) (s : State) : Host.Outcome State Fault Refusal :=
  match i with
  | .cmd b => Sys2Proof.Machine.execCmd b s
  | .data b => Sys2Proof.Machine.execData b s
  | .endProgram => Sys2Proof.Machine.execEndProgram s
  | .dataRun n => Sys2Proof.Machine.execDataRun n s
  | .cmdRun n => Sys2Proof.Machine.execCmdRun n s
  | .reservedInit b => Sys2Proof.Machine.execReservedInit b s
  | .nop => Sys2Proof.Machine.execNop s
  | .sleepOut => Sys2Proof.Machine.execSleepOut s
  | .invOff => Sys2Proof.Machine.execInvOff s
  | .invOn => Sys2Proof.Machine.execInvOn s
  | .gamma => Sys2Proof.Machine.execGamma s
  | .displayOff => Sys2Proof.Machine.execDisplayOff s
  | .displayOn => Sys2Proof.Machine.execDisplayOn s
  | .column => Sys2Proof.Machine.execColumn s
  | .page => Sys2Proof.Machine.execPage s
  | .write => Sys2Proof.Machine.execWrite s
  | .memAccessCtrl => Sys2Proof.Machine.execMemAccessCtrl s
  | .pixelFormat => Sys2Proof.Machine.execPixelFormat s
  | .rgbCtrl => Sys2Proof.Machine.execRgbCtrl s
  | .frameCtrl => Sys2Proof.Machine.execFrameCtrl s
  | .displayCtrl => Sys2Proof.Machine.execDisplayCtrl s
  | .entryMode => Sys2Proof.Machine.execEntryMode s
  | .powerCtrl1 => Sys2Proof.Machine.execPowerCtrl1 s
  | .powerCtrl2 => Sys2Proof.Machine.execPowerCtrl2 s
  | .vcomCtrl1 => Sys2Proof.Machine.execVcomCtrl1 s
  | .vcomCtrl2 => Sys2Proof.Machine.execVcomCtrl2 s
  | .powerCtrlA => Sys2Proof.Machine.execPowerCtrlA s
  | .powerCtrlB => Sys2Proof.Machine.execPowerCtrlB s
  | .posGamma => Sys2Proof.Machine.execPosGamma s
  | .negGamma => Sys2Proof.Machine.execNegGamma s
  | .drvTimingCtrlA => Sys2Proof.Machine.execDrvTimingCtrlA s
  | .drvTimingCtrlB => Sys2Proof.Machine.execDrvTimingCtrlB s
  | .powerOnSeqCtrl => Sys2Proof.Machine.execPowerOnSeqCtrl s
  | .enable3G => Sys2Proof.Machine.execEnable3G s
  | .pumpRatioCtrl => Sys2Proof.Machine.execPumpRatioCtrl s
  | .touchZ1 => Sys2Proof.Machine.execTouchZ1 s
  | .touchZ2 => Sys2Proof.Machine.execTouchZ2 s
  | .touchX => Sys2Proof.Machine.execTouchX s
  | .touchY => Sys2Proof.Machine.execTouchY s
  | .initBlock k => Sys2Proof.Machine.execInitBlock k s
  | .beginTx => Sys2Proof.Machine.execBeginTx s
  | .endTx => Sys2Proof.Machine.execEndTx s
  | .sendCmd b => Sys2Proof.Machine.execSendCmd b s
  | .sendData b => Sys2Proof.Machine.execSendData b s
  | .sendData16 v => Sys2Proof.Machine.execSendData16 v s
  | .setOrientation o => Sys2Proof.Machine.execSetOrientation o s
  | .setInverted inv => Sys2Proof.Machine.execSetInverted inv s
  | .batchStart x y w h => Sys2Proof.Machine.execBatchStart x y w h s
  | .batchDraw c => Sys2Proof.Machine.execBatchDraw c s
  | .batchStop => Sys2Proof.Machine.execBatchStop s
  | .drawPixel x y c => Sys2Proof.Machine.execDrawPixel x y c s
  | .fillRect x y w h c => Sys2Proof.Machine.execFillRect x y w h c s
  | .fillScreen c => Sys2Proof.Machine.execFillScreen c s
  | .touchRawRead => Sys2Proof.Machine.execTouchRawRead s
  | .touchCalibrate fg bg => Sys2Proof.Machine.execTouchCalibrate fg bg s
  | .touchRead => Sys2Proof.Machine.execTouchRead s
  | .setBrightness pct => Sys2Proof.Machine.execSetBrightness pct s

end Sys2Proof.Machine
end

