-- ==== Sys2Proof/Machine/Fetch.lean ====
section
/-! DEFINITION. What the machine does next: the instruction it fetches, or a step that runs no instruction. -/

namespace Sys2Proof.Machine

/-- The next thing the machine does. -/
inductive Fetched where
  /-- Run this instruction in this state. -/
  | run (i : Instr) (s : State)
  /-- No instruction: this is the step's answer. -/
  | done (a : Answer)

/-- A packet's code. -/
def Packet.code : Packet → Code
  | .host bs => .host bs
  | .wire w => .wire w
  | .touch b => .touch b

/-- How the prelude treats a packet that spells no typed operation, by its identifier. -/
def classOf (op : Byte) : OpClass :=
  match op with
  | 0x01#8 => .init
  | 0x0A#8 => .batch
  | 0x0B#8 => .batch
  | _ => .plain

/-- A packet the decoder rejects: an unknown identifier is F_REFUSED (R304), an operand that is no legal value is
F_BAD_OPERAND after the prelude (R34; assumption 4), a touch byte never sent is refused (R110; assumption 5). -/
def rejectPacket (e : DecodeError) (s : State) : Answer :=
  match e with
  | .emptyPacket => .next (unknownOp s)
  | .unknownOp _ => .next (unknownOp s)
  | .badOperand op => .next (hostOp (classOf op) (fail .badOperand) s)
  | .badLength op => .next (hostOp (classOf op) (fail .badOperand) s)
  | .touchByteNotSent b => .refused (.touchByteNotSent b)

/-- Between operations: the oldest packet is accepted (R71); with none issued the block waits (assumption 26). -/
def fetchPacket (s : State) : Fetched :=
  match s.issue with
  | [] => .done (.next s)
  | p :: rest =>
    match decode p.code with
    | .ok i => .run i { s with issue := rest }
    | .error e => .done (rejectPacket e { s with issue := rest })

/-- Inside the init program: the ROM byte at the pointer, which advances (R140); off the end it is ill-formed. -/
def fetchRom (s : State) : Fetched :=
  match s.rom.read s.st.ip with
  | some b => .run (decodeRom b) { s with st := { s.st with ip := s.st.ip + 1 } }
  | none => .done (.next (stepOp (fail .badInitProgram) s))

/-- What the machine does next. -/
def fetch (s : State) : Fetched :=
  match s.activity with
  | .idle => fetchPacket s
  | .initProgram => fetchRom s
  | .initTail => .done (.next (initTailStep s))
  | .polling fg bg => .done (pollStep fg bg s)

end Sys2Proof.Machine
end

