-- ==== Sys2Proof/Machine/Step.lean ====
section
/-! DEFINITION. One step of the machine, and the placing of one instruction where the next step fetches it. -/

namespace Sys2Proof.Machine

/-- One step: what is fetched, run. -/
def step (s : State) : Host.Outcome State Fault Refusal :=
  match fetch s with
  | .run i t => exec i t
  | .done a => a

/-- `s` with a table word stored where `step` fetches its next instruction. A host operation, a wire word or a touch
byte is issued to an idle block; an init-program byte, followed by zero bytes, is stored in the ROM at the pointer of a
block inside its init program (assumptions 2, 14). -/
def State.withFetchWord (s : State) (nbits w : Nat) : State :=
  match tableCode nbits w with
  | none => s
  | some (.wire v) => { s with activity := .idle, issue := .wire v :: s.issue }
  | some (.touch b) => { s with activity := .idle, issue := .touch b :: s.issue }
  | some (.host bs) => { s with activity := .idle, issue := .host bs :: s.issue }
  | some (.rom b) =>
    { s with activity := .initProgram, rom := s.rom.writeList s.st.ip (b :: List.replicate 63 0) }

end Sys2Proof.Machine
end

