-- ==== Sys2Proof/Machine/Record.lean ====
section
/-! DEFINITION. The terms in which claims speak of a sequence of words or exchanges: what it adds to the record, what the
controller makes of it, what it leaves in the block. No meaning is built from them. -/

namespace Sys2Proof.Machine

/-- How many 9-bit words a word-level record holds: each draws one received byte (R132). -/
def wordCount : List WordEvent → Nat
  | [] => 0
  | .w9 _ _ :: es => wordCount es + 1
  | .ev _ :: es => wordCount es

/-- The state after a sequence of events `es` that leaves the block at `b` and the controller at `c`: the events are
on the record at pin level (R60, R133), their received bytes are drawn, and nothing else has changed. -/
def State.after (es : List WordEvent) (b : Block) (c : Ctl) (s : State) : State :=
  { s with st := b, ctl := c, wireRev := (expand es s.draws).reverse ++ s.wireRev, draws := s.draws + wordCount es }

/-- Words as word-level events. -/
def asEvents (ws : List (Bool × Byte)) : List WordEvent := ws.map (fun w => .w9 w.1 w.2)

/-- The events of a bracket of its own. -/
def bracketEvents (ws : List (Bool × Byte)) : List WordEvent :=
  .ev (.csd false) :: (asEvents ws ++ [.ev (.csd true)])

/-- The controller after a sequence of words (R73). -/
def Ctl.receive (c : Ctl) (ws : List (Bool × Byte)) : Ctl := ws.foldl (fun c w => c.word w.1 w.2) c

/-- The block after one word: the pre-bit's latches, the engine on (R131). -/
def Block.afterWord (dcx : Bool) (b : Block) : Block := { b with mosiLatch := dcx, sckLatch := true, spe := true }

/-- The block after a sequence of words: as the last one leaves it. -/
def Block.latched (ws : List (Bool × Byte)) (b : Block) : Block :=
  match ws.getLast? with
  | none => b
  | some w => b.afterWord w.1

/-- The words of SET_AREA (R160). -/
def areaWords (x0 y0 x1 y1 : U16) : List (Bool × Byte) := rangeWords 0x2A x0 x1 ++ rangeWords 0x2B y0 y1

/-- The events of SET_AREA: two brackets (R160). -/
def areaEvents (x0 y0 x1 y1 : U16) : List WordEvent :=
  bracketEvents (rangeWords 0x2A x0 x1) ++ bracketEvents (rangeWords 0x2B y0 y1)

/-- The data words of a pixel stream, in order. -/
def pixelWords (cs : List U16) : List (Bool × Byte) := cs.flatMap dataWords16

/-- The words of a whole batch over `r` that draws the pixels `cs`. -/
def batchWords (r : Rect) (cs : List U16) : List (Bool × Byte) :=
  areaWords r.x r.y (rangeEnd r.x r.w) (rangeEnd r.y r.h) ++ (false, 0x2C) :: pixelWords cs

/-- The events of a whole batch: the window, then WRITE and the pixels in one bracket (R161 to R163). -/
def batchEvents (r : Rect) (cs : List U16) : List WordEvent :=
  areaEvents r.x r.y (rangeEnd r.x r.w) (rangeEnd r.y r.h) ++ bracketEvents ((false, 0x2C) :: pixelWords cs)

/-- The words of SET_ORIENTATION (R168). -/
def orientationWords (o : Orientation) : List (Bool × Byte) :=
  commandWords 0x36 [orientMadctl o.byte] ++ areaWords 0 0 (orientWidth o.byte - 1) (orientHeight o.byte - 1)

/-- The events of SET_ORIENTATION: three brackets (R168). -/
def orientationEvents (o : Orientation) : List WordEvent :=
  bracketEvents (commandWords 0x36 [orientMadctl o.byte])
  ++ areaEvents 0 0 (orientWidth o.byte - 1) (orientHeight o.byte - 1)

/-! ### Whole display operations: the state each leaves -/

/-- After a whole batch over `r` that draws the pixels `cs` (R161 to R163). -/
def State.batched (r : Rect) (cs : List U16) (s : State) : State :=
  s.after (batchEvents r cs) { s.st.afterWord true with dcsN := true, inBatch := false } (s.ctl.receive (batchWords r cs))

/-- After FILL_RECT: the clamped rectangle in one colour; nothing where it is empty (R165, R166). -/
def State.filledRect (r : Rect) (c : U16) (s : State) : State :=
  let q := clampRect s.st.width s.st.height r
  if q.w = 0 ∨ q.h = 0 then s else s.batched q (List.replicate (q.w.toNat * q.h.toNat) c)

/-- After FILL_SCREEN: the whole logical screen in one colour (R167). -/
def State.filledScreen (c : U16) (s : State) : State :=
  s.batched { x := 0, y := 0, w := s.st.width, h := s.st.height }
    (List.replicate (s.st.width.toNat * s.st.height.toNat) c)

/-- After SET_ORIENTATION (R168). -/
def State.oriented (o : Orientation) (s : State) : State :=
  s.after (orientationEvents o)
    { s.st.afterWord true with
      dcsN := true, width := orientWidth o.byte, height := orientHeight o.byte, orient := o }
    (s.ctl.receive (orientationWords o))

/-- After CROSSHAIR: its four squares filled in order (R233). -/
def State.crosshaired (p : RawPoint) (fg bg : U16) (s : State) : State :=
  (crosshairSquares p fg bg).foldl (fun t q => t.filledRect q.1 q.2) s

/-! ### Calibration -/

/-- A state with its block record changed. -/
def State.onSt (f : Block → Block) (s : State) : State := { s with st := f s.st }

/-- After TOUCH_CALIBRATE up to its first poll: the orientation saved, 0° set, the first target drawn (R231). -/
def State.calEntered (fg bg : U16) (s : State) : State :=
  { (((s.onSt (fun b => { b with calSaved := b.orient })).oriented .deg0).onSt
      (fun b => { b with calI := 0 })).crosshaired (refPoint 0) fg bg with
    activity := .polling fg bg, result := none }

/-- After a valid poll's record, acknowledgement and clear (R231, R235, R236). -/
def State.accepted (fg bg : U16) (tx ty : U16) (s : State) : State :=
  ((s.onSt (fun b => { b with calT := b.calT.set b.calI { x := tx, y := ty } })).filledRect
    (Config.ackRect (refPoint s.st.calI).x (refPoint s.st.calI).y) (Config.ackColour fg bg)).filledScreen bg

/-- After a valid poll of a point that is not the last: the next target is drawn (R231). -/
def State.nextTarget (fg bg : U16) (tx ty : U16) (s : State) : State :=
  ((s.accepted fg bg tx ty).onSt (fun b => { b with calI := s.st.calI + 1 })).crosshaired
    (refPoint (s.st.calI + 1)) fg bg

/-- After the last point's acceptance: the orientation restored, the procedure over with outcome `r` (R241). -/
def State.calRestored (r : OpResult) (s : State) : State :=
  { (s.onSt (fun b => { b with calI := 3 })).oriented s.st.calSaved with activity := .idle, result := some r }

/-! ### INIT -/

/-- The events of INIT before its init program (R331 to R333, R335). -/
def initEvents (k : DivCode) : List WordEvent :=
  [.ev (.csd true), .ev (.cst true), .ev (.rst true), .ev (.div k), .ev (.order .msbFirst), .ev (.rst false),
   .ev (.wait Config.tRstLow), .ev (.rst true), .ev (.wait Config.tRstWait), .ev (.csd false), .w9 false 0x28]

/-- The events of INIT after its init program (R333 to R335). -/
def initTailEvents : List WordEvent :=
  [.w9 false 0x29, .ev (.csd true)]
  ++ batchEvents { x := 0, y := 0, w := 320, h := 240 } (List.replicate (Config.lcdWidth * Config.lcdHeight) 0x0000)

/-- After INIT's last part: DISPLAY_ON, the bracket closed, the screen filled with colour 0 (R333 to R335). -/
def State.initLeft (s : State) : State :=
  { ((s.after [.w9 false 0x29, .ev (.csd true)] { s.st.afterWord false with dcsN := true }
      (s.ctl.word false 0x29)).filledScreen 0x0000).onSt (fun b => { b with initDone := true }) with
    activity := .idle, result := some .ok }

/-- The words of a parsed init program, in order (R140). -/
def programWords (runs : List InitRun) : List (Bool × Byte) := runs.flatMap (fun r => r.bytes.map (r.dcx, ·))

/-- The block when INIT enters its init program (R331 to R333). -/
def Block.initEntered (k : DivCode) (b : Block) : Block :=
  { b with
    inBatch := false, calibrated := false, lastTx := 0, lastTy := 0
    orient := .deg0, width := 320, height := 240
    dcsN := false, tcsN := true, rstN := true, dispDiv := k, div := k, order := .msbFirst
    spe := true, mosiLatch := false, sckLatch := true, ip := 0 }

/-- How many reset pulses end during INIT's line writes: the pulse of R332, and one more where the reset line was low. -/
def resetPulses (s : State) : Nat := if s.st.rstN then 1 else 2

/-- After INIT up to its init program: the controller is unknown but for the command it has received (R79, R333). -/
def State.initEntered (k : DivCode) (s : State) : State :=
  { State.after (initEvents k) (s.st.initEntered k)
      (Ctl.word (Ctl.afterReset (Config.freeCtl (s.draws + resetPulses s - 1))) false 0x28)
      { s with draws := s.draws + resetPulses s } with
    activity := .initProgram, result := none }

/-! ### Touch exchanges -/

/-- The answer the touch ADC gives to exchange number `k` from here, counting from 0, while it listens: the k-th answer
the outside fixed, else a free value (R80). -/
def adcByte (s : State) (k : Nat) : Byte := (s.adc[k]?).getD (Config.freeByte (s.draws + k))

/-- The exchanges that send `os`, from exchange number `k` on, as events. -/
def touchEvents (s : State) : List Byte → Nat → List WireEvent
  | [], _ => []
  | o :: os, k => .x8 o (adcByte s k) :: touchEvents s os (k + 1)

/-- The bytes sent for the two pressure conversions (R202, R210). -/
def zBytes (fill : Byte) : List Byte := [0xB8, fill, 0xC8, fill]

/-- The bytes sent for an axis: two samples of the command (R205, R210). -/
def axisBytes (cmd fill : Byte) : List Byte := [cmd, fill, fill, cmd, fill, fill]

/-- The record of a touch sample that sends `os`, in order (R210). -/
def touchRecord (os : List Byte) (s : State) : List WireEvent :=
  [.div s.params.div8, .cst false] ++ touchEvents s os 0 ++ [.cst true, .div s.st.dispDiv]

/-- The state after a touch sample that sends `os`: set up, exchanged, torn down (R201, R208). -/
def State.sampled (os : List Byte) (s : State) : State :=
  { s with
    st := { s.st with tcsN := true, div := s.st.dispDiv }
    wireRev := (touchRecord os s).reverse ++ s.wireRev
    adc := s.adc.drop os.length, draws := s.draws + os.length }

/-- The pressure of the sample that starts here (R202, R203): exchanges 1 and 3 are z1 and z2. -/
def pressureAt (s : State) : Byte := pressure (adcByte s 1) (adcByte s 3)

/-- The axis value of the two samples whose first command is exchange `k` (R205). -/
def axisAt (s : State) (k : Nat) : U16 := agreed (adcByte s (k + 1)) (adcByte s (k + 4)) (adcByte s (k + 5))

end Sys2Proof.Machine
end

