-- ==== Sys2Proof/Safety.lean ====
section
/-! DEFINITION. What counts as a safe run, in the terms claims use: no fault recorded (R303), the prelude's admission
(R304), the framing law of the record (R130, R139), the invariant of every step (R37). -/

namespace Sys2Proof.Machine

/-- No contract violation is on record (R303). -/
def State.safe (s : State) : Bool := s.st.fault.isNone

/-- The prelude admits every host operation but the two that need an open batch (R304). -/
abbrev State.Ready (s : State) : Prop := s.st.fault = none ∧ s.st.initDone = true ∧ s.st.inBatch = false

/-- A batch is open: the prelude admits the two batch operations, and words are admitted (R29, R37). -/
abbrev State.InBatch (s : State) : Prop :=
  s.st.fault = none ∧ s.st.initDone = true ∧ s.st.inBatch = true ∧ s.st.dcsN = false

/-- A word is admitted: no fault, the display chip-select asserted (R133). -/
abbrev State.Selected (s : State) : Prop := s.st.fault = none ∧ s.st.dcsN = false

/-- Raw points that a raw read can have accepted (R209, R245). -/
abbrev CalPoints.Accepted (t : CalPoints) : Prop :=
  ∀ p ∈ [t.p0, t.p1, t.p2], 1 ≤ p.x.toNat ∧ p.x.toNat ≤ 1023 ∧ 1 ≤ p.y.toNat ∧ p.y.toNat ≤ 1023

/-! ### Runs -/

/-- `n` steps of the machine. -/
def runSteps : Nat → State → Answer
  | 0, s => .next s
  | n + 1, s =>
    match step s with
    | .next t => runSteps n t
    | .fault r => .fault r
    | .refused r => .refused r

/-- Instructions run one after another (R71). -/
def runAll : List Instr → State → Answer
  | [], s => .next s
  | i :: is, s =>
    match exec i s with
    | .next t => runAll is t
    | .fault r => .fault r
    | .refused r => .refused r

/-! ### The framing law (R130, R139) -/

/-- Where a record stands: both chip-selects released, the touch ADC selected, the display selected between two words,
or inside a word after each of its five pin writes. -/
inductive Framing where
  | released
  | listening
  | selected
  | mosiSet
  | sckLow
  | engineOff
  | edge
  | engineOn
  deriving DecidableEq, Repr

/-- How one event moves a record on; none where the event breaks the law. A word's pin writes come in order and only
while the display is selected, its payload exchange ends it, and the display is released only between words. -/
def Framing.next (f : Framing) (e : WireEvent) : Option Framing :=
  match f with
  | .released => match e with
    | .csd v => some (if v then .released else .selected)
    | .cst v => some (if v then .released else .listening)
    | .rst _ => some .released
    | .wait _ => some .released
    | .div _ => some .released
    | .order _ => some .released
    | .x8 _ _ => some .released
    | _ => none
  | .listening => match e with
    | .x8 _ _ => some .listening
    | .cst v => if v then some .released else none
    | _ => none
  | .selected => match e with
    | .mosi _ => some .mosiSet
    | .csd v => if v then some .released else none
    | _ => none
  | .mosiSet => match e with
    | .sck v => if v then none else some .sckLow
    | _ => none
  | .sckLow => match e with
    | .spe v => if v then none else some .engineOff
    | _ => none
  | .engineOff => match e with
    | .sck v => if v then some .edge else none
    | _ => none
  | .edge => match e with
    | .spe v => if v then some .engineOn else none
    | _ => none
  | .engineOn => match e with
    | .x8 _ _ => some .selected
    | _ => none

/-- Where a record, newest event first, stands; none where some event of it broke the law. -/
def framing : List WireEvent → Option Framing
  | [] => some .released
  | e :: es => (framing es).bind (Framing.next · e)

/-- The record keeps the law, and stands where the chip-selects say: the touch ADC is released. -/
def State.Framed (s : State) : Prop :=
  s.st.tcsN = true ∧ framing s.wireRev = some (if s.st.dcsN then .released else .selected)

/-! ### The invariant -/

/-- The logical dimensions are those of the orientation (R28). -/
def Block.DimsAgree (b : Block) : Prop :=
  b.width = orientWidth b.orient.byte ∧ b.height = orientHeight b.orient.byte

/-- The denominator the division of `CAL_ARITH` uses is not zero (R240, R260). -/
def denominatorNonzero (arith : CalArith) (k : CalWords) : Prop :=
  match arith with
  | .s64 => k.cdiv ≠ 0
  | .u32 => k.cdiv.setWidth 32 ≠ 0

/-- The window register pair is not reversed. -/
def Ctl.windowForward (c : Ctl) : Prop := c.xs.toNat ≤ c.xe.toNat ∧ c.ys.toNat ≤ c.ye.toNat

/-- The cursor is inside the window. -/
def Ctl.cursorInside (c : Ctl) : Prop :=
  c.xs.toNat ≤ c.cx.toNat ∧ c.cx.toNat ≤ c.xe.toNat ∧ c.ys.toNat ≤ c.cy.toNat ∧ c.cy.toNat ≤ c.ye.toNat

/-- What holds of the controller after any words: the display memory's canonical form and its bounds (R73), the
parameter count (R75), the cursor inside a window that is not reversed (R74, R77). -/
structure Ctl.Ok (c : Ctl) : Prop where
  gramWf : c.gram.wf = true
  gramInside : ∀ cell ∈ c.gram, cell.1 < 76800
  paramCount : c.cmd = some 0x2A ∨ c.cmd = some 0x2B → c.pcount = c.pbuf.length
  cursor : c.cmd = some 0x2C → c.windowForward → c.cursorInside

/-- What a long operation in progress rests on. -/
def State.ActivityOk (s : State) : Prop :=
  match s.activity with
  | .idle => True
  | .initProgram | .initTail =>
    s.st.fault = none ∧ s.st.dcsN = false ∧ s.st.inBatch = false ∧ s.st.orient = .deg0 ∧ s.st.order = .msbFirst
  | .polling _ _ =>
    s.st.fault = none ∧ s.st.initDone = true ∧ s.st.dcsN = true ∧ s.st.inBatch = false ∧ s.st.orient = .deg0
      ∧ s.st.calI ≤ 2

/-- The invariant of every step: the items of R37, and what the spec says holds of the ROM, the display memory, the
calibration and its cache, the controller, the long operations. -/
structure State.Inv (s : State) : Prop where
  romWf : s.rom.wf = true
  controller : s.ctl.Ok
  engineOn : s.st.initDone = true → s.st.spe = true
  msbFirst : s.st.initDone = true → s.st.order = .msbFirst
  touchReleased : s.st.tcsN = true
  divisorRestored : s.st.div = s.st.dispDiv
  batchSelected : s.st.inBatch = true → s.st.dcsN = false
  dimsAgree : s.st.DimsAgree
  denominator : s.st.calibrated = true → denominatorNonzero s.params.calArith s.st.cal
  cacheX : s.st.lastTx ≠ 0 → s.st.sxC.toNat < Config.lcdWidth
  cacheY : s.st.lastTy ≠ 0 → s.st.syC.toNat < Config.lcdHeight
  activityOk : s.ActivityOk

end Sys2Proof.Machine
end

