-- ==== Sys2Proof/Certificates/Slice0/Obligations.lean ====
section
/-! DEFINITION. What is claimed of the model, from the numbered rules of the spec. Where a statement gives the whole next
state as an equation, everything it does not name is unchanged: that is the instruction's frame. `State.after` and the
other terms a state is written with are those of Machine/Record.lean. The fields activity, issue, result, adc and draws,
and the free bytes received during display words, are the model's own (assumptions 12, 13, 31). -/

section Statements

open Sys2Proof Sys2Proof.Machine

/-! ### Fetching and decoding -/

/-- A step runs the instruction it fetches: the oldest packet issued to an idle block (R71), the ROM byte at the pointer
inside the init program (R140). With nothing issued an idle block waits; off the end of the ROM the program is
ill-formed. The packet queue and one step for each ROM instruction are the model's choices (assumptions 1, 2, 26). -/
def Obligations.StepRunsFetchedInstruction : Prop :=
  ∀ s : State,
    (∀ p rest i, s.activity = .idle → s.issue = p :: rest → decode p.code = .ok i →
      step s = exec i { s with issue := rest }) ∧
    (s.activity = .idle → s.issue = [] → step s = .next s) ∧
    (∀ b, s.activity = .initProgram → s.rom.read s.st.ip = some b →
      step s = exec (decodeRom b) (s.onSt (fun st => { st with ip := st.ip + 1 }))) ∧
    (s.activity = .initProgram → s.rom.read s.st.ip = none → s.st.fault = none →
      step s = .next (s.raise .badInitProgram))

/-- A few encodings of the spec's tables, one of each format and more, decode to the instruction they stand for. The
operand bytes of a host packet are the model's layout, no table of the spec (assumption 3). -/
def Obligations.DecodesWordsOfTheTables : Prop :=
  decode (.wire 0b000101010) = .ok .column ∧
  decode (.wire 0b100101010) = .ok (.data 0x2A) ∧
  decode (.wire 0b000000001) = .ok (.cmd 0x01) ∧
  decode (.rom 0b11111111) = .ok .endProgram ∧
  decode (.rom 0b10111111) = .ok (.dataRun 63) ∧
  decode (.rom 0b01000001) = .ok (.cmdRun 1) ∧
  decode (.rom 0b11000101) = .ok (.reservedInit 0xC5) ∧
  decode (.touch 0b11010000) = .ok .touchX ∧
  decode (.host [0x0C, 0x00, 0x0A, 0x00, 0x14, 0xF8, 0x00]) = .ok (.drawPixel 10 20 0xF800) ∧
  decode (.host [0x13]) = .error (.unknownOp 0x13)

/-- Decoding an encoded well-formed instruction gives it back, with every operand. The operand bytes of the host
operations are the model's layout (assumption 3). -/
def Obligations.DecodeOfEncode : Prop :=
  ∀ i : Instr, WellFormed i = true → decode (encode i) = .ok i

/-- What decodes is well-formed and is the encoding of the instruction it decodes to: each code has one meaning. That
rests on the model's packet layout (assumption 3), on its rejecting an operand byte with spare bits set (assumption 4),
and on the named row winning over the row C (assumption 33). -/
def Obligations.EncodeOfDecode : Prop :=
  ∀ (c : Code) (i : Instr), decode c = .ok i → WellFormed i = true ∧ encode i = c

/-- R94: an init-program byte is tested in the order END, kind 10, kind 01, reserved. -/
def Obligations.InitByteDecoding : Prop :=
  ∀ b : Byte,
    (b = 0xFF → decodeRom b = .endProgram) ∧
    (0x80 ≤ b.toNat → b.toNat ≤ 0xBF → decodeRom b = .dataRun (BitVec.ofNat 6 (b.toNat - 0x80))) ∧
    (0x40 ≤ b.toNat → b.toNat ≤ 0x7F → decodeRom b = .cmdRun (BitVec.ofNat 6 (b.toNat - 0x40))) ∧
    (b.toNat ≤ 0x3F → decodeRom b = .reservedInit b) ∧
    (0xC0 ≤ b.toNat → b.toNat ≤ 0xFE → decodeRom b = .reservedInit b)

/-- R107, R108: the fields of an assembled touch command are those it was assembled from, start bit set; the four
commands the block sends are the bytes of the table, and no other byte is a touch command. -/
def Obligations.TouchCommandAssembly : Prop :=
  (∀ (a : BitVec 3) (mode8 single : Bool) (pd : BitVec 2),
    touchFieldsOf (touchCommand a mode8 single pd) =
      { start := true, channel := a, mode8 := mode8, single := single, pd := pd }) ∧
  (∀ b i, decode (.touch b) = .ok i → b = 0xB8 ∨ b = 0xC8 ∨ b = 0xD0 ∨ b = 0x90) ∧
  encode .touchZ1 = .touch 0xB8 ∧ encode .touchZ2 = .touch 0xC8 ∧
  encode .touchX = .touch 0xD0 ∧ encode .touchY = .touch 0x90 ∧
  touchCommand 3 true false 0 = 0xB8 ∧ touchCommand 4 true false 0 = 0xC8 ∧
  touchCommand 5 false false 0 = 0xD0 ∧ touchCommand 1 false false 0 = 0x90

/-! ### The word -/

/-- R133: a display word, whichever of the 31 wire instructions it is, sends exactly its nine bits while the display
chip-select is asserted, and faults before any pin is touched while it is not. Running a word as a step of its own is
the model's choice (assumptions 2, 28). -/
def Obligations.WireWordSendsItsNineBits : Prop :=
  ∀ (i : Instr) (dcx : Bool) (b : Byte) (s : State), encode i = .wire (word9 dcx b) → s.st.fault = none →
    (s.st.dcsN = false → exec i s = .next (s.after [.w9 dcx b]
      { s.st with mosiLatch := dcx, sckLatch := true, spe := true } (s.ctl.word dcx b))) ∧
    (s.st.dcsN = true → exec i s = .next (s.raise .bracket))

/-- R131: the pre-bit's five writes, the one rising SCK edge while the engine is off, with MOSI at the D/CX bit on that
edge (pin levels by R24). -/
def Obligations.PreBitHasOneRisingEdge : Prop :=
  ∀ (dcx : Bool) (s : State), s.st.spe = true →
    (preBitStates dcx s).map State.sckPin = [false, false, false, false, true, false] ∧
    (preBitStates dcx s).map State.mosiPin = [none, none, none, some dcx, some dcx, none] ∧
    (preBitStates dcx s).getLast? = some (preBit dcx s) ∧
    preBit dcx s = { s with
      st := { s.st with mosiLatch := dcx, sckLatch := true, spe := true }
      wireRev := [.spe true, .sck true, .spe false, .sck false, .mosi dcx] ++ s.wireRev }

/-- The three levels of the record agree (R60, R65, R133): a word-level record that holds no bare MOSI write is what its
pin-level expansion reads as, whatever bytes are received; and with the bit order MSB first, whatever the line stood at,
the bits that words clock on the bus are their nine bits from bit 8 down to bit 0, and the bits that exchanges clock are
bit 7 down to bit 0 of the byte sent, each with the same bit of the byte received. -/
def Obligations.RecordLevelsAgree : Prop :=
  (∀ (es : List WordEvent) (d : Nat), (∀ v, WordEvent.ev (.mosi v) ∉ es) → collapse (expand es d) = es) ∧
  (∀ (l : Line) (ws : List (Bool × Byte)) (d : Nat), l.order = .msbFirst →
    (l.clocked (expand (asEvents ws) d)).map Prod.fst
      = ws.flatMap (fun w => [8, 7, 6, 5, 4, 3, 2, 1, 0].map (word9 w.1 w.2).getLsbD)) ∧
  (∀ (l : Line) (xs : List (Byte × Byte)), l.order = .msbFirst →
    l.clocked (xs.map (fun x => .x8 x.1 x.2))
      = xs.flatMap (fun x => [7, 6, 5, 4, 3, 2, 1, 0].map (fun k => (x.1.getLsbD k, some (x.2.getLsbD k)))))

/-- R130, for every step from every state: every word on the record is one pre-bit, then one payload exchange, with the
display chip-select asserted throughout and released only between words; and the touch ADC is selected only while the
display is not. -/
def Obligations.StepKeepsFramingLaw : Prop :=
  ∀ s t : State, s.Framed → step s = .next t → t.Framed

/-- The power-on record, empty, keeps the framing law; the pin levels of the power-on state are the model's choice
(assumption 7). -/
def Obligations.ResetMeetsFramingLaw : Prop := State.reset.Framed

/-! ### The display controller -/

/-- R74: what a command word does to the controller, for every command byte. -/
def Obligations.CommandWordEffect : Prop :=
  ∀ (i : Instr) (b : Byte) (s : State), encode i = .wire (word9 false b) → s.Selected →
    ∃ t, exec i s = .next t ∧
      t.ctl = { s.ctl with
        cmd := some b, pcount := 0, pbuf := [], hi := none
        cx := if b = 0x2C then s.ctl.xs else s.ctl.cx
        cy := if b = 0x2C then s.ctl.ys else s.ctl.cy
        on := if b = 0x28 then some false else if b = 0x29 then some true else s.ctl.on
        awake := if b = 0x11 then some true else s.ctl.awake
        inv := if b = 0x20 then some false else if b = 0x21 then some true else s.ctl.inv }

/-- Data words under COLUMN and PAGE: stored and counted, the fourth sets the window. That the words beyond the fourth are
still stored and counted is the model's reading (assumption 23). -/
def Obligations.WindowParameterWords : Prop :=
  ∀ (b : Byte) (s : State), s.Selected → s.ctl.pcount = s.ctl.pbuf.length →
    ∃ t, exec (.data b) s = .next t ∧
      (∀ b0 b1 b2, s.ctl.cmd = some 0x2A → s.ctl.pbuf = [b0, b1, b2] →
        t.ctl = { s.ctl with
          pbuf := [b0, b1, b2, b], pcount := 4, xs := joinBytes b0 b1, xe := joinBytes b2 b }) ∧
      (∀ b0 b1 b2, s.ctl.cmd = some 0x2B → s.ctl.pbuf = [b0, b1, b2] →
        t.ctl = { s.ctl with
          pbuf := [b0, b1, b2, b], pcount := 4, ys := joinBytes b0 b1, ye := joinBytes b2 b }) ∧
      (s.ctl.cmd = some 0x2A ∨ s.ctl.cmd = some 0x2B → s.ctl.pcount ≠ 3 →
        t.ctl = { s.ctl with pbuf := s.ctl.pbuf ++ [b], pcount := s.ctl.pcount + 1 })

/-- R76 and R77: a data word under WRITE. The first byte of a pixel is held; the second writes the pixel at the cursor and
advances the cursor with its two wraps. In contract, with the cursor at a logical position, which `PHYS_MAP` then maps,
exactly one position of the display memory changes; out of contract every position becomes unknown. -/
def Obligations.PixelDataWords : Prop :=
  ∀ (b : Byte) (s : State), s.Selected → s.ctl.cmd = some 0x2C →
    ∃ t, exec (.data b) s = .next t ∧
      (s.ctl.hi = none → t.ctl = { s.ctl with hi := some b }) ∧
      ∀ h, s.ctl.hi = some h →
        t.ctl = { s.ctl with hi := none, cx := t.ctl.cx, cy := t.ctl.cy, gram := t.ctl.gram } ∧
        t.ctl.cx.toNat = (if s.ctl.cx.toNat + 1 > s.ctl.xe.toNat then s.ctl.xs.toNat else s.ctl.cx.toNat + 1) ∧
        t.ctl.cy.toNat = (if s.ctl.cx.toNat + 1 > s.ctl.xe.toNat then
            (if s.ctl.cy.toNat + 1 > s.ctl.ye.toNat then s.ctl.ys.toNat else s.ctl.cy.toNat + 1)
          else s.ctl.cy.toNat) ∧
        (∀ m, s.ctl.madctl = some m → isOrientationMadctl m = true → s.ctl.windowOk m = true →
          s.ctl.cx.toNat < panelWidth m → s.ctl.cy.toNat < panelHeight m →
          ∃ k, physCell m s.ctl.cx.toNat s.ctl.cy.toNat = some k ∧ t.ctl.gram.read k = some (joinBytes h b) ∧
            ∀ j, j ≠ k → t.ctl.gram.read j = s.ctl.gram.read j) ∧
        ((∀ m, s.ctl.madctl = some m → isOrientationMadctl m = true → s.ctl.windowOk m = false) →
          ∀ j, t.ctl.gram.read j = none)

/-- R78: data words under the two commands with one parameter byte, and under every command without tracked parameters. -/
def Obligations.OneParameterDataWords : Prop :=
  ∀ (b : Byte) (s : State), s.Selected →
    ∃ t, exec (.data b) s = .next t ∧
      (s.ctl.cmd = some 0x36 → s.ctl.pcount = 0 → t.ctl = { s.ctl with madctl := some b, pcount := 1 }) ∧
      (s.ctl.cmd = some 0x3A → s.ctl.pcount = 0 → t.ctl = { s.ctl with pixfmt := some b, pcount := 1 }) ∧
      (s.ctl.cmd = some 0x36 ∨ s.ctl.cmd = some 0x3A → s.ctl.pcount ≠ 0 →
        t.ctl = { s.ctl with pcount := s.ctl.pcount + 1 }) ∧
      (s.ctl.cmd ≠ some 0x2A → s.ctl.cmd ≠ some 0x2B → s.ctl.cmd ≠ some 0x2C → s.ctl.cmd ≠ some 0x36 →
        s.ctl.cmd ≠ some 0x3A → t.ctl = { s.ctl with pcount := s.ctl.pcount + 1 })

/-! ### The prelude and the fault -/

/-- The four checks of the prelude (R304), in order, for every host packet whose identifier is `op`, well-formed or not.
The packet form of an operation, and the prelude's running first where a packet is not well-formed, are the model's
(assumptions 3, 4). -/
def Obligations.PreludeChecksInOrder : Prop :=
  ∀ (s : State) (op : Byte) (args : List Byte) (rest : List Packet),
    s.activity = .idle → s.issue = .host (op :: args) :: rest →
    (∀ c, s.st.fault = some c → step s = .next (({ s with issue := rest } : State).setResult (.faulted c))) ∧
    (s.st.fault = none → op ≠ 0x01 → s.st.initDone = false →
      step s = .next (({ s with issue := rest } : State).raise .notInit)) ∧
    (s.st.fault = none → op = 0x01 ∨ s.st.initDone = true → s.st.inBatch = true → op ≠ 0x0A → op ≠ 0x0B →
      step s = .next (({ s with issue := rest } : State).raise .batch)) ∧
    (s.st.fault = none → s.st.initDone = true → s.st.inBatch = false → ¬(0x01 ≤ op.toNat ∧ op.toNat ≤ 0x12) →
      step s = .next (({ s with issue := rest } : State).raise .refused))

/-- R303: what raising a fault does, and that from then on every instruction and every host packet changes nothing and
answers FAULTED with the recorded code. -/
def Obligations.FaultIsStickyAndTerminal : Prop :=
  (∀ (s : State) (code : FaultCode),
    s.raise code = { s with
      st := { s.st with fault := some (s.st.fault.getD code) }
      result := some (.faulted code), activity := .idle }) ∧
  (∀ (s : State) (c : FaultCode) (i : Instr), s.st.fault = some c →
    ∃ t, exec i s = .next t ∧ t.st = s.st ∧ t.ctl = s.ctl ∧ t.rom = s.rom ∧ t.wireRev = s.wireRev ∧
      t.adc = s.adc ∧ t.result = some (.faulted c)) ∧
  (∀ (s : State) (c : FaultCode) (bs : List Byte) (rest : List Packet), s.st.fault = some c → s.activity = .idle →
    s.issue = .host bs :: rest → step s = .next { s with issue := rest, result := some (.faulted c) })

/-! ### Brackets and word senders -/

/-- R134 and R135: BEGIN and END write the chip-select and emit its event; each faults in the other's place, and in a
batch. -/
def Obligations.BeginAndEndToggleChipSelect : Prop :=
  ∀ s : State, s.st.fault = none → s.st.initDone = true →
    (s.st.inBatch = false → s.st.dcsN = true → exec .beginTx s = .next
      ((s.after [.ev (.csd false)] { s.st with dcsN := false } s.ctl).setResult .ok)) ∧
    (s.st.inBatch = false → s.st.dcsN = false → exec .beginTx s = .next (s.raise .bracket)) ∧
    (s.st.inBatch = false → s.st.dcsN = false → exec .endTx s = .next
      ((s.after [.ev (.csd true)] { s.st with dcsN := true } s.ctl).setResult .ok)) ∧
    (s.st.inBatch = false → s.st.dcsN = true → exec .endTx s = .next (s.raise .bracket)) ∧
    (s.st.inBatch = true → exec .beginTx s = .next (s.raise .batch) ∧ exec .endTx s = .next (s.raise .batch))

/-- R136, R137 and R138: the three word senders inside a bracket, and their fault outside one, before the first word. -/
def Obligations.SendOperationsSendTheirWords : Prop :=
  ∀ s : State, s.Ready →
    (s.st.dcsN = false →
      (∀ b, exec (.sendCmd b) s = .next ((s.after [.w9 false b] (s.st.afterWord false)
        (s.ctl.word false b)).setResult .ok)) ∧
      (∀ b, exec (.sendData b) s = .next ((s.after [.w9 true b] (s.st.afterWord true)
        (s.ctl.word true b)).setResult .ok)) ∧
      (∀ v, exec (.sendData16 v) s = .next ((s.after [.w9 true (v.extractLsb' 8 8), .w9 true (v.extractLsb' 0 8)]
        (s.st.afterWord true) ((s.ctl.word true (v.extractLsb' 8 8)).word true (v.extractLsb' 0 8))).setResult .ok))) ∧
    (s.st.dcsN = true →
      (∀ b, exec (.sendCmd b) s = .next (s.raise .bracket)) ∧
      (∀ b, exec (.sendData b) s = .next (s.raise .bracket)) ∧
      (∀ v, exec (.sendData16 v) s = .next (s.raise .bracket)))

/-! ### Windows and batches -/

/-- R160: the words of SET_AREA, and the controller's window after them, operands sent as given. -/
def Obligations.SetAreaSetsWindow : Prop :=
  ∀ (x0 y0 x1 y1 : U16) (s : State), s.st.dcsN = true →
    ∃ t, setArea x0 y0 x1 y1 s = .go t ∧
      t.st = { s.st with mosiLatch := true, sckLatch := true, spe := true } ∧
      t.wire = s.wire ++ expand
        [.ev (.csd false), .w9 false 0x2A, .w9 true (hiByte x0), .w9 true (loByte x0), .w9 true (hiByte x1),
         .w9 true (loByte x1), .ev (.csd true), .ev (.csd false), .w9 false 0x2B, .w9 true (hiByte y0),
         .w9 true (loByte y0), .w9 true (hiByte y1), .w9 true (loByte y1), .ev (.csd true)] s.draws ∧
      t.ctl.xs = x0 ∧ t.ctl.xe = x1 ∧ t.ctl.ys = y0 ∧ t.ctl.ye = y1 ∧
      t.ctl.gram = s.ctl.gram ∧ t.ctl.madctl = s.ctl.madctl

/-- R161: BATCH_START with a window that is not empty and fits 16 bits, its two operand faults, its bracket fault, and a
batch already open. -/
def Obligations.BatchStartOpensBatch : Prop :=
  ∀ (x y w h : U16) (s : State), s.st.fault = none → s.st.initDone = true →
    (s.st.inBatch = false → s.st.dcsN = true → w ≠ 0 → h ≠ 0 → x.toNat + w.toNat - 1 ≤ 0xFFFF →
      y.toNat + h.toNat - 1 ≤ 0xFFFF → exec (.batchStart x y w h) s = .next ((s.after
        (areaEvents x y (x + w - 1) (y + h - 1) ++ [.ev (.csd false), .w9 false 0x2C])
        { s.st.afterWord false with dcsN := false, inBatch := true }
        (s.ctl.receive (areaWords x y (x + w - 1) (y + h - 1) ++ [(false, 0x2C)]))).setResult .ok)) ∧
    (s.st.inBatch = false → s.st.dcsN = true →
      w = 0 ∨ h = 0 ∨ 0xFFFF < x.toNat + w.toNat - 1 ∨ 0xFFFF < y.toNat + h.toNat - 1 →
      exec (.batchStart x y w h) s = .next (s.raise .badOperand)) ∧
    (s.st.inBatch = false → s.st.dcsN = false → exec (.batchStart x y w h) s = .next (s.raise .bracket)) ∧
    (s.st.inBatch = true → exec (.batchStart x y w h) s = .next (s.raise .batch))

/-- R162 and R163: BATCH_DRAW and BATCH_STOP in a batch, and their fault outside one. -/
def Obligations.BatchDrawAndStop : Prop :=
  ∀ s : State,
    (s.InBatch →
      (∀ c, exec (.batchDraw c) s = .next ((s.after [.w9 true (hiByte c), .w9 true (loByte c)] (s.st.afterWord true)
        ((s.ctl.word true (hiByte c)).word true (loByte c))).setResult .ok)) ∧
      exec .batchStop s = .next ((s.after [.ev (.csd true)] { s.st with dcsN := true, inBatch := false }
        s.ctl).setResult .ok)) ∧
    (s.Ready → (∀ c, exec (.batchDraw c) s = .next (s.raise .batch)) ∧ exec .batchStop s = .next (s.raise .batch))

/-- R171, the batch fill law: with the controller's MADCTL agreeing with the orientation and the window inside the logical
screen, BATCH_START, exactly w·h draws and BATCH_STOP complete; the logical pixel (x + k mod w, y + k div w) holds the
k-th colour, and no other position of the display memory changes. -/
def Obligations.BatchFillLaw : Prop :=
  ∀ (x y w h : U16) (cs : List U16) (s : State), s.Ready → s.st.dcsN = true → s.st.DimsAgree →
    s.ctl.madctl = some (orientMadctl s.st.orient.byte) → w ≠ 0 → h ≠ 0 →
    x.toNat + w.toNat ≤ s.st.width.toNat → y.toNat + h.toNat ≤ s.st.height.toNat →
    cs.length = w.toNat * h.toNat →
    ∃ t, runAll (.batchStart x y w h :: (cs.map Instr.batchDraw ++ [.batchStop])) s = .next t ∧
      (∀ k c, cs[k]? = some c → ∃ j,
        physCell (orientMadctl s.st.orient.byte) (x.toNat + k % w.toNat) (y.toNat + k / w.toNat) = some j ∧
        t.ctl.gram.read j = some c) ∧
      (∀ j, (∀ k, k < cs.length →
          physCell (orientMadctl s.st.orient.byte) (x.toNat + k % w.toNat) (y.toNat + k / w.toNat) ≠ some j) →
        t.ctl.gram.read j = s.ctl.gram.read j)

/-! ### Pixels, rectangles, the screen -/

/-- R164: DRAW_PIXEL out of range is a silent no-op, in range a batch of one pixel; its bracket fault. -/
def Obligations.DrawPixelClipsOrDraws : Prop :=
  ∀ (x y c : U16) (s : State), s.Ready →
    (s.st.dcsN = true → s.st.width.toNat ≤ x.toNat ∨ s.st.height.toNat ≤ y.toNat →
      exec (.drawPixel x y c) s = .next (s.setResult .ok)) ∧
    (s.st.dcsN = true → x.toNat < s.st.width.toNat → y.toNat < s.st.height.toNat →
      exec (.drawPixel x y c) s = .next ((s.after
        (areaEvents x y x y ++ [.ev (.csd false), .w9 false 0x2C, .w9 true (hiByte c), .w9 true (loByte c),
          .ev (.csd true)])
        { s.st.afterWord true with dcsN := true }
        (s.ctl.receive (areaWords x y x y ++ [(false, 0x2C), (true, hiByte c), (true, loByte c)]))).setResult .ok)) ∧
    (s.st.dcsN = false → exec (.drawPixel x y c) s = .next (s.raise .bracket))

/-- R165 and R172: what CLAMP_RECT answers, in exact arithmetic, and that the result is inside the logical screen. -/
def Obligations.ClampRectLaw : Prop :=
  ∀ (width height : U16) (r : Rect), width ≠ 0 → height ≠ 0 →
    (clampRect width height r).x.toNat = min r.x.toNat (width.toNat - 1) ∧
    (clampRect width height r).y.toNat = min r.y.toNat (height.toNat - 1) ∧
    (clampRect width height r).w.toNat =
      (if min r.x.toNat (width.toNat - 1) + r.w.toNat ≥ width.toNat then
        width.toNat - min r.x.toNat (width.toNat - 1) else r.w.toNat) ∧
    (clampRect width height r).h.toNat =
      (if min r.y.toNat (height.toNat - 1) + r.h.toNat ≥ height.toNat then
        height.toNat - min r.y.toNat (height.toNat - 1) else r.h.toNat) ∧
    (clampRect width height r).x.toNat < width.toNat ∧ (clampRect width height r).y.toNat < height.toNat ∧
    (clampRect width height r).x.toNat + (clampRect width height r).w.toNat ≤ width.toNat ∧
    (clampRect width height r).y.toNat + (clampRect width height r).h.toNat ≤ height.toNat

/-- R166: FILL_RECT is a batch of w·h pixels over the clamped rectangle, a silent no-op where that is empty; its bracket
fault. It never faults on its operands. -/
def Obligations.FillRectFillsClampedRect : Prop :=
  ∀ (x y w h c : U16) (s : State), s.Ready → s.st.DimsAgree →
    (s.st.dcsN = true → (clampRect s.st.width s.st.height ⟨x, y, w, h⟩).w = 0 ∨
      (clampRect s.st.width s.st.height ⟨x, y, w, h⟩).h = 0 →
      exec (.fillRect x y w h c) s = .next (s.setResult .ok)) ∧
    (s.st.dcsN = true → (clampRect s.st.width s.st.height ⟨x, y, w, h⟩).w ≠ 0 →
      (clampRect s.st.width s.st.height ⟨x, y, w, h⟩).h ≠ 0 →
      exec (.fillRect x y w h c) s = .next ((s.batched (clampRect s.st.width s.st.height ⟨x, y, w, h⟩)
        (List.replicate ((clampRect s.st.width s.st.height ⟨x, y, w, h⟩).w.toNat *
          (clampRect s.st.width s.st.height ⟨x, y, w, h⟩).h.toNat) c)).setResult .ok)) ∧
    (s.st.dcsN = false → exec (.fillRect x y w h c) s = .next (s.raise .bracket))

/-- R167: FILL_SCREEN is a batch over the whole logical screen, 76 800 pixels in either orientation; its bracket fault. -/
def Obligations.FillScreenFillsPanel : Prop :=
  ∀ (c : U16) (s : State), s.Ready → s.st.DimsAgree →
    s.st.width.toNat * s.st.height.toNat = 76800 ∧
    (s.st.dcsN = true → exec (.fillScreen c) s = .next ((s.batched ⟨0, 0, s.st.width, s.st.height⟩
      (List.replicate (s.st.width.toNat * s.st.height.toNat) c)).setResult .ok)) ∧
    (s.st.dcsN = false → exec (.fillScreen c) s = .next (s.raise .bracket))

/-! ### Orientation, inversion, brightness -/

/-- R168 and R100: SET_ORIENTATION of each legal value, by its byte, dimensions and MADCTL byte; every other byte faults
with no effect; its bracket fault. -/
def Obligations.SetOrientationSetsDimensions : Prop :=
  ∀ (v : Byte) (s : State), s.Ready →
    (s.st.dcsN = true → ∀ o width height madctl,
      (v, o, width, height, madctl) ∈
        ([(0xE8, .deg0, 320, 240, 0xE8), (0x49, .deg90, 240, 320, 0x48), (0x38, .deg180, 320, 240, 0x38),
          (0x89, .deg270, 240, 320, 0x88)] : List (Byte × Orientation × U16 × U16 × Byte)) →
      exec (.setOrientation v) s = .next ((s.after
        ([.ev (.csd false), .w9 false 0x36, .w9 true madctl, .ev (.csd true)]
          ++ areaEvents 0 0 (width - 1) (height - 1))
        { s.st.afterWord true with orient := o, width := width, height := height }
        (s.ctl.receive ([(false, 0x36), (true, madctl)] ++ areaWords 0 0 (width - 1) (height - 1)))).setResult .ok)) ∧
    (s.st.dcsN = true → v ≠ 0xE8 → v ≠ 0x49 → v ≠ 0x38 → v ≠ 0x89 →
      exec (.setOrientation v) s = .next (s.raise .badOperand)) ∧
    (s.st.dcsN = false → exec (.setOrientation v) s = .next (s.raise .bracket))

/-- R173: the dimensions after SET_ORIENTATION, and that setting an orientation twice leaves the block and the controller
as setting it once does, with the words on the record twice. -/
def Obligations.OrientationTwiceIsOnce : Prop :=
  ∀ (o : Orientation) (s t : State), s.Ready → s.st.dcsN = true → exec (.setOrientation o.byte) s = .next t →
    (t.st.width = if o.byte.extractLsb' 0 2 = 0 then 320 else 240) ∧
    (t.st.height = if o.byte.extractLsb' 0 2 = 0 then 240 else 320) ∧
    t.wire = s.wire ++ expand (orientationEvents o) s.draws ∧
    ∃ u, exec (.setOrientation o.byte) t = .next u ∧ u.st = t.st ∧ u.ctl = t.ctl ∧
      u.wire = t.wire ++ expand (orientationEvents o) t.draws

/-- R169: SET_INVERTED sends INV_ON for 1 and INV_OFF for 0 in one bracket, and the controller's inversion follows; its
bracket fault. -/
def Obligations.SetInvertedSendsInversion : Prop :=
  ∀ (inv : Bool) (s : State), s.Ready →
    (s.st.dcsN = true → exec (.setInverted inv) s = .next ((s.after
      [.ev (.csd false), .w9 false (if inv then 0x21 else 0x20), .ev (.csd true)]
      { s.st.afterWord false with dcsN := true }
      { s.ctl with
        cmd := some (if inv then 0x21 else 0x20), pcount := 0, pbuf := [], hi := none, inv := some inv }).setResult .ok)) ∧
    (s.st.dcsN = false → exec (.setInverted inv) s = .next (s.raise .bracket))

/-- R170: SET_BRIGHTNESS always raises F_REFUSED, with nothing else done. -/
def Obligations.SetBrightnessIsRefused : Prop :=
  ∀ (pct : Byte) (s : State), s.Ready → exec (.setBrightness pct) s = .next (s.raise .refused)

/-! ### Touch sampling -/

/-- A touch-ADC command run as a step of its own reads its conversion, and changes nothing else of the block. Such a step,
its bus conflict with a display bracket, and its running with the serial engine off too, are the model's choices
(assumptions 28, 29, 37); with the touch chip-select asserted the received bytes are the ADC's answers. -/
def Obligations.TouchCommandsConvert : Prop :=
  ∀ s : State, s.st.fault = none →
    (s.st.dcsN = true → s.st.tcsN = false →
      (∀ i cmd, (i, cmd) ∈ ([(.touchZ1, 0xB8), (.touchZ2, 0xC8)] : List (Instr × Byte)) →
        exec i s = .next { s with
          wireRev := (touchEvents s [cmd, s.params.touchFill] 0).reverse ++ s.wireRev
          adc := s.adc.drop 2, draws := s.draws + 2, result := some (.sample ((adcByte s 1).setWidth 16)) }) ∧
      (∀ i cmd, (i, cmd) ∈ ([(.touchX, 0xD0), (.touchY, 0x90)] : List (Instr × Byte)) →
        exec i s = .next { s with
          wireRev := (touchEvents s (axisBytes cmd s.params.touchFill) 0).reverse ++ s.wireRev
          adc := s.adc.drop 6, draws := s.draws + 6
          result := some (.sample
            (if adcByte s 1 = adcByte s 4 then (adcByte s 4 ++ (adcByte s 5).extractLsb' 6 2).setWidth 16 else 0)) })) ∧
    (s.st.dcsN = false → ∀ i ∈ ([.touchZ1, .touchZ2, .touchX, .touchY] : List Instr),
      exec i s = .next (s.raise .busConflict))

/-- R200 to R208 and R210: TOUCH_RAW_READ with the display released: its result by the ADC's answers at each exchange,
the complete record of each way out, the divisor and the touch chip-select restored on all of them, no other field of
the block written. With a display bracket open it is a bus conflict and nothing is done. -/
def Obligations.TouchRawReadSamples : Prop :=
  ∀ s : State, s.Ready →
    (s.st.dcsN = true → ∀ (p : Nat) (os : List Byte) (tx ty : U16),
      p = (adcByte s 1).toNat % 128 + (255 - (adcByte s 3).toNat) % 128 →
      os = [0xB8, s.params.touchFill, 0xC8, s.params.touchFill] →
      tx = (if adcByte s 5 = adcByte s 8 then (adcByte s 8 ++ (adcByte s 9).extractLsb' 6 2).setWidth 16 else 0) →
      ty = (if adcByte s 11 = adcByte s 14 then (adcByte s 14 ++ (adcByte s 15).extractLsb' 6 2).setWidth 16 else 0) →
      (p ≤ 5 → exec .touchRawRead s = .next ((s.sampled os).setResult .noTouch)) ∧
      (5 < p → tx = 0 → exec .touchRawRead s = .next
        ((s.sampled (os ++ axisBytes 0xD0 s.params.touchFill)).setResult .noTouch)) ∧
      (5 < p → tx ≠ 0 → ty = 0 → exec .touchRawRead s = .next
        ((s.sampled (os ++ axisBytes 0xD0 s.params.touchFill ++ axisBytes 0x90 s.params.touchFill)).setResult
          .noTouch)) ∧
      (5 < p → tx ≠ 0 → ty ≠ 0 → exec .touchRawRead s = .next
        ((s.sampled (os ++ axisBytes 0xD0 s.params.touchFill ++ axisBytes 0x90 s.params.touchFill)).setResult
          (.raw (BitVec.ofNat 8 p) tx ty)))) ∧
    (s.st.dcsN = false → exec .touchRawRead s = .next (s.raise .busConflict))

/-- R209 and R212: a raw read is OK or NO_TOUCH; where it is OK the two samples of each axis agreed, both values are not
zero, and the results are in their ranges. -/
def Obligations.RawReadRangesAndNoiseFilter : Prop :=
  ∀ s : State, s.Ready → s.st.dcsN = true →
    ∃ t, exec .touchRawRead s = .next t ∧
      (t.result = some .noTouch ∨ ∃ p tx ty, t.result = some (.raw p tx ty) ∧
        6 ≤ p.toNat ∧ p.toNat ≤ 254 ∧ 1 ≤ tx.toNat ∧ tx.toNat ≤ 1023 ∧ 1 ≤ ty.toNat ∧ ty.toNat ≤ 1023 ∧
        adcByte s 5 = adcByte s 8 ∧ adcByte s 11 = adcByte s 14)

/-- The bytes a raw read discards never matter: two states that differ only in the ADC's answers, and agree at the eight
exchanges whose answer is kept, give the same outcome and the same state, but for the bytes received on the record, which
is as long, and the answers not yet taken, of which as many are left. -/
def Obligations.DiscardedTouchBytesNeverMatter : Prop :=
  ∀ (s : State) (adc1 adc2 : List Byte), adc1.length = adc2.length → 16 ≤ adc1.length →
    adc1.drop 16 = adc2.drop 16 →
    (∀ k ∈ [1, 3, 5, 8, 9, 11, 14, 15], adc1[k]? = adc2[k]?) →
    s.Ready → s.st.dcsN = true →
    ∀ t1 t2, exec .touchRawRead { s with adc := adc1 } = .next t1 → exec .touchRawRead { s with adc := adc2 } = .next t2 →
      t2 = { t1 with adc := t2.adc, wireRev := t2.wireRev } ∧ t1.wireRev.length = t2.wireRev.length ∧
      ∃ n, n ≤ 16 ∧ t1.adc = adc1.drop n ∧ t2.adc = adc2.drop n

/-! ### Calibration -/

/-- R232 and R233: the three reference points; the four squares of a crosshair, in drawing order, with their sides,
corners and colours; no square is changed by the clamp on the 0° screen; and CROSSHAIR there fills the four whole. -/
def Obligations.ReferencePointsAndSquares : Prop :=
  refPoint 0 = ⟨20, 20⟩ ∧ refPoint 1 = ⟨300, 120⟩ ∧ refPoint 2 = ⟨160, 220⟩ ∧
  ∀ (i : Nat) (fg bg : U16) (p : RawPoint), p = refPoint i →
    crosshairSquares p fg bg =
      [(⟨p.x - 10, p.y - 10, 20, 20⟩, fg), (⟨p.x - 9, p.y - 9, 18, 18⟩, bg),
       (⟨p.x - 4, p.y - 4, 8, 8⟩, fg), (⟨p.x - 3, p.y - 3, 6, 6⟩, bg)] ∧
    (∀ q ∈ crosshairSquares p fg bg, clampRect 320 240 q.1 = q.1) ∧
    ∀ s : State, s.st.dcsN = true → s.st.width = 320 → s.st.height = 240 →
      crosshair p fg bg s = .go
        ((((s.batched ⟨p.x - 10, p.y - 10, 20, 20⟩ (List.replicate 400 fg)).batched
          ⟨p.x - 9, p.y - 9, 18, 18⟩ (List.replicate 324 bg)).batched
          ⟨p.x - 4, p.y - 4, 8, 8⟩ (List.replicate 64 fg)).batched
          ⟨p.x - 3, p.y - 3, 6, 6⟩ (List.replicate 36 bg))

/-- TOUCH_CALIBRATE from a ready block, up to its first poll: the orientation saved, 0° set, the first target drawn (R231).
Ending the step there is the model's choice, which R314 recommends (assumption 1). Its bracket fault. -/
def Obligations.TouchCalibrateDrawsFirstTarget : Prop :=
  ∀ (fg bg : U16) (s : State), s.Ready →
    (s.st.dcsN = true → exec (.touchCalibrate fg bg) s = .next
      { (((s.onSt (fun b => { b with calSaved := s.st.orient })).oriented .deg0).onSt
          (fun b => { b with calI := 0 })).crosshaired ⟨20, 20⟩ fg bg with
        activity := .polling fg bg, result := none }) ∧
    (s.st.dcsN = false → exec (.touchCalibrate fg bg) s = .next (s.raise .bracket))

/-- One poll of a calibration (R231, R234): without a valid touch nothing but the sample happens and the polling goes on;
with one, and points left, the point is recorded, acknowledged and cleared, and the next target is drawn. One step for
each poll is the model's choice, which R314 recommends (assumption 1). -/
def Obligations.CalibrationPollStep : Prop :=
  ∀ (fg bg : U16) (s : State), s.Inv → s.activity = .polling fg bg →
    (∀ t, rawSample s = .noTouch t → step s = .next t ∧ t.activity = .polling fg bg ∧ t.st.calI = s.st.calI ∧
      t.st.calT = s.st.calT ∧ t.ctl = s.ctl) ∧
    (∀ p tx ty t, rawSample s = .touch p tx ty t → s.st.calI < 2 →
      step s = .next (t.nextTarget fg bg tx ty) ∧
      (t.nextTarget fg bg tx ty).st.calI = s.st.calI + 1 ∧
      (t.nextTarget fg bg tx ty).st.calT = s.st.calT.set s.st.calI ⟨tx, ty⟩) ∧
    (∀ t, rawSample s ≠ .conflict t)

/-- R240, R242 and R246: the poll that takes the third point ends the calibration with the saved orientation restored.
With a zero determinant the outcome is CAL_FAILED and no calibration word, `calibrated` or cache field is written;
otherwise the seven words are written together, `calibrated` is true, both raw coordinates of the cache are 0, and the
outcome is OK. The last pressure and the two cached coordinates are never written. -/
def Obligations.CalibrationCommitsOrFails : Prop :=
  ∀ (fg bg : U16) (s t : State) (p : Byte) (tx ty : U16) (w : CalWords), s.Inv → s.activity = .polling fg bg →
    s.st.calI = 2 → rawSample s = .touch p tx ty t →
    w = computeCal s.params.calArith { s.st.calT with p2 := ⟨tx, ty⟩ } →
    (w.cdiv = 0 → ∃ u, step s = .next u ∧ u.result = some .calFailed ∧ u.activity = .idle ∧
      u.st.cal = s.st.cal ∧ u.st.calibrated = s.st.calibrated ∧ u.st.lastTx = s.st.lastTx ∧
      u.st.lastTy = s.st.lastTy ∧ u.st.sxC = s.st.sxC ∧ u.st.syC = s.st.syC ∧ u.st.lastP = s.st.lastP ∧
      u.st.orient = s.st.calSaved ∧ u.st.DimsAgree) ∧
    (w.cdiv ≠ 0 → ∃ u, step s = .next u ∧ u.result = some .ok ∧ u.activity = .idle ∧
      u.st.cal = w ∧ u.st.calibrated = true ∧ u.st.lastTx = 0 ∧ u.st.lastTy = 0 ∧
      u.st.sxC = s.st.sxC ∧ u.st.syC = s.st.syC ∧ u.st.lastP = s.st.lastP ∧
      u.st.orient = s.st.calSaved ∧ u.st.DimsAgree)

/-- R243, the calibration affine law under s64, for every three raw points with a determinant that is not zero: the exact
numerators at each raw point are the screen point times the determinant, and the clamped quotients are the screen point.
R244, the same under u32, for raw points that a raw read can accept: the quotients are the screen point where the exact
determinant is positive; where it is negative they are 0, as in the example. -/
def Obligations.CalibrationAffineLaw : Prop :=
  (∀ (t : CalPoints) (l r : RawPoint), (l, r) ∈ [(refPoint 0, t.p0), (refPoint 1, t.p1), (refPoint 2, t.p2)] →
    (coeffsExact t).div ≠ 0 →
    (coeffsExact t).a * (r.x.toNat : Int) + (coeffsExact t).b * (r.y.toNat : Int) + (coeffsExact t).c
      = (l.x.toNat : Int) * (coeffsExact t).div ∧
    (coeffsExact t).d * (r.x.toNat : Int) + (coeffsExact t).e * (r.y.toNat : Int) + (coeffsExact t).f
      = (l.y.toNat : Int) * (coeffsExact t).div ∧
    transformX .s64 (computeCal .s64 t) r.x r.y = l.x ∧ transformY .s64 (computeCal .s64 t) r.x r.y = l.y) ∧
  (∀ (t : CalPoints) (l r : RawPoint) (k : CalWords), t.Accepted → k = computeCal .u32 t →
    (l, r) ∈ [(refPoint 0, t.p0), (refPoint 1, t.p1), (refPoint 2, t.p2)] →
    (0 < (coeffsExact t).div →
      quotU32 (numeratorU32 k.a k.b k.c r.x r.y) (k.cdiv.setWidth 32) = l.x.setWidth 32 ∧
      quotU32 (numeratorU32 k.d k.e k.f r.x r.y) (k.cdiv.setWidth 32) = l.y.setWidth 32 ∧
      transformX .u32 k r.x r.y = l.x ∧ transformY .u32 k r.x r.y = l.y) ∧
    ((coeffsExact t).div < 0 →
      quotU32 (numeratorU32 k.a k.b k.c r.x r.y) (k.cdiv.setWidth 32) = 0 ∧
      quotU32 (numeratorU32 k.d k.e k.f r.x r.y) (k.cdiv.setWidth 32) = 0 ∧
      transformX .u32 k r.x r.y = 0 ∧ transformY .u32 k r.x r.y = 0)) ∧
  (coeffsExact ⟨⟨900, 100⟩, ⟨100, 500⟩, ⟨500, 900⟩⟩).div = -480000 ∧
  (computeCal .u32 ⟨⟨900, 100⟩, ⟨100, 500⟩, ⟨500, 900⟩⟩).cdiv = 0xFFF8AD00

/-- The u32 words are the exact values modulo 2^32 (R238). The bounds of R245 for raw points a raw read can accept, and
what follows: the s64 words are the exact values (R239), and the determinant of either arithmetic is zero exactly where
the exact one is. -/
def Obligations.CalibrationBounds : Prop :=
  (∀ t : CalPoints, computeCal .u32 t = wordsOf (fun v => (BitVec.ofInt 32 v).setWidth 64) (coeffsExact t)) ∧
  ∀ t : CalPoints, t.Accepted →
    |(coeffsExact t).div| ≤ 2 * 1022 ^ 2 ∧ |(coeffsExact t).a| ≤ 2 * 140 * 1022 ∧
    |(coeffsExact t).b| ≤ 2 * 140 * 1022 ∧ |(coeffsExact t).d| ≤ 300 * 1022 ∧ |(coeffsExact t).e| ≤ 300 * 1022 ∧
    |(coeffsExact t).c| ≤ 3 * 1023 * 306900 ∧ |(coeffsExact t).f| ≤ 3 * 1023 * 306900 ∧
    (computeCal .s64 t).a.toInt = (coeffsExact t).a ∧ (computeCal .s64 t).b.toInt = (coeffsExact t).b ∧
    (computeCal .s64 t).c.toInt = (coeffsExact t).c ∧ (computeCal .s64 t).d.toInt = (coeffsExact t).d ∧
    (computeCal .s64 t).e.toInt = (coeffsExact t).e ∧ (computeCal .s64 t).f.toInt = (coeffsExact t).f ∧
    (computeCal .s64 t).cdiv.toInt = (coeffsExact t).div ∧
    ((computeCal .u32 t).cdiv = 0 ↔ (coeffsExact t).div = 0) ∧
    ((computeCal .s64 t).cdiv = 0 ↔ (coeffsExact t).div = 0)

/-! ### Transform, clamp, remap -/

/-- R265, R266, R268, R269 and R270: the numerators, modulo 2^32 under u32 and exact under s64, there within 31 bits for
calibrated words and raw readings; the quotients under the clamps to 320 and 240; the unsigned floor division; the 16-bit
wraparound clamp and the signed clamp. -/
def Obligations.DivisionAndClamps : Prop :=
  (∀ (u v w : BitVec 64) (tx ty : U16),
    (numeratorU32 u v w tx ty).toNat = (u.toNat * tx.toNat + v.toNat * ty.toNat + w.toNat) % 2 ^ 32 ∧
    numeratorS64 u v w tx ty = u.toInt * tx.toNat + v.toInt * ty.toNat + w.toInt) ∧
  (∀ (t : CalPoints) (k : CalWords) (tx ty : U16), t.Accepted → k = computeCal .s64 t →
    tx.toNat ≤ 1023 → ty.toNat ≤ 1023 →
    |numeratorS64 k.a k.b k.c tx ty| < 2 ^ 31 ∧ |numeratorS64 k.d k.e k.f tx ty| < 2 ^ 31) ∧
  (∀ (k : CalWords) (tx ty : U16),
    transformX .u32 k tx ty = clampU32 (quotU32 (numeratorU32 k.a k.b k.c tx ty) (k.cdiv.setWidth 32)) 320 ∧
    transformY .u32 k tx ty = clampU32 (quotU32 (numeratorU32 k.d k.e k.f tx ty) (k.cdiv.setWidth 32)) 240 ∧
    transformX .s64 k tx ty = clampS64 (quotS64 (numeratorS64 k.a k.b k.c tx ty) k.cdiv.toInt) 320 ∧
    transformY .s64 k tx ty = clampS64 (quotS64 (numeratorS64 k.d k.e k.f tx ty) k.cdiv.toInt) 240) ∧
  (∀ n d : BitVec 32, d ≠ 0 → (quotU32 n d).toNat = n.toNat / d.toNat) ∧
  (∀ (q : BitVec 32) (dim : Nat), 0 < dim → dim ≤ 0x7FFF → (clampU32 q dim).toNat =
    (if q.toNat % 65536 ≥ 2 * dim then 0 else if q.toNat % 65536 ≥ dim then dim - 1 else q.toNat % 65536)) ∧
  (∀ (q : Int) (dim : Nat), 0 < dim → dim ≤ 0x7FFF → ((clampS64 q dim).toNat : Int) =
    (if q < 0 then 0 else if q ≥ dim then (dim : Int) - 1 else q))

/-- R267: the s64 division truncates toward zero, in exact arithmetic; and after the clamp floor division gives the
same. -/
def Obligations.TruncationEqualsFloorAfterClamp : Prop :=
  ∀ (n d : Int) (dim : Nat), d ≠ 0 →
    quotS64 n d = n.sign * d.sign * ((n.natAbs / d.natAbs : Nat) : Int) ∧
    clampS64 (quotS64 n d) dim = clampS64 (Int.fdiv n d) dim

/-- R271 and R275: the remap in exact arithmetic with its ranges; 0° is the identity, 180° twice is the identity, and the
90° and 270° formulas are inverted by the spec's formulas. -/
def Obligations.RemapTableAndInverses : Prop :=
  ∀ sx sy : U16, sx.toNat < 320 → sy.toNat < 240 →
    remap .deg0 320 240 sx sy = (sx, sy) ∧
    ((remap .deg90 240 320 sx sy).1 = sy ∧ (remap .deg90 240 320 sx sy).2.toNat = 320 - sx.toNat ∧
      1 ≤ (remap .deg90 240 320 sx sy).2.toNat ∧ (remap .deg90 240 320 sx sy).2.toNat ≤ 320 ∧
      sx = 320 - (remap .deg90 240 320 sx sy).2) ∧
    ((remap .deg180 320 240 sx sy).1.toNat = 320 - sx.toNat ∧ (remap .deg180 320 240 sx sy).2.toNat = 240 - sy.toNat ∧
      1 ≤ (remap .deg180 320 240 sx sy).1.toNat ∧ 1 ≤ (remap .deg180 320 240 sx sy).2.toNat ∧
      remap .deg180 320 240 (remap .deg180 320 240 sx sy).1 (remap .deg180 320 240 sx sy).2 = (sx, sy)) ∧
    ((remap .deg270 240 320 sx sy).1.toNat = 240 - sy.toNat ∧ (remap .deg270 240 320 sx sy).2 = sx ∧
      1 ≤ (remap .deg270 240 320 sx sy).1.toNat ∧ (remap .deg270 240 320 sx sy).1.toNat ≤ 240 ∧
      sy = 240 - (remap .deg270 240 320 sx sy).1)

/-- R261: an uncalibrated TOUCH_READ answers NO_TOUCH at once, even with a bracket open. -/
def Obligations.UncalibratedReadIsNoTouch : Prop :=
  ∀ s : State, s.Ready → s.st.calibrated = false → exec .touchRead s = .next (s.setResult .noTouch)

/-- R262 to R264 and R272: a calibrated TOUCH_READ runs the raw sample; without a touch it answers NO_TOUCH and writes no
cache field; with one it keeps the pressure, recomputes an axis in mode exact, or in mode per_axis where its raw
coordinate changed, and answers the remapped cached coordinates. With a bracket open it is a bus conflict (R260). -/
def Obligations.CalibratedReadUsesCache : Prop :=
  ∀ s : State, s.Ready → s.st.calibrated = true →
    (∀ t, s.st.dcsN = true → rawSample s = .noTouch t → exec .touchRead s = .next (t.setResult .noTouch) ∧
      t.st = { s.st with tcsN := true, div := s.st.dispDiv }) ∧
    (∀ p tx ty t, s.st.dcsN = true → rawSample s = .touch p tx ty t → ∃ sx sy,
      (sx = if s.params.cacheMode = .perAxis ∧ tx = s.st.lastTx then s.st.sxC
        else transformX s.params.calArith s.st.cal tx ty) ∧
      (sy = if s.params.cacheMode = .perAxis ∧ ty = s.st.lastTy then s.st.syC
        else transformY s.params.calArith s.st.cal tx ty) ∧
      exec .touchRead s = .next { t with
        st := { s.st with
          tcsN := true, div := s.st.dispDiv, lastP := p, lastTx := tx, lastTy := ty, sxC := sx, syC := sy }
        result := some (.point (remap s.st.orient s.st.width s.st.height sx sy).1
          (remap s.st.orient s.st.width s.st.height sx sy).2) }) ∧
    (s.st.dcsN = false → exec .touchRead s = .next (s.raise .busConflict))

/-- R273: a reading of a calibrated raw point, both axes recomputed, gives the screen point it was taken for; at 0° the
result is that point. Under u32 the same holds where the exact determinant is positive (R244). -/
def Obligations.CalibrationRoundTrip : Prop :=
  ∀ (s t : State) (p : Byte) (l r : RawPoint) (pts : CalPoints), s.Ready → s.st.DimsAgree → s.st.dcsN = true →
    s.st.calibrated = true → s.st.cal = computeCal s.params.calArith pts →
    (s.params.calArith = .s64 ∧ (coeffsExact pts).div ≠ 0) ∨
      (s.params.calArith = .u32 ∧ 0 < (coeffsExact pts).div ∧ pts.Accepted) →
    (l, r) ∈ [(refPoint 0, pts.p0), (refPoint 1, pts.p1), (refPoint 2, pts.p2)] →
    s.params.cacheMode = .exact ∨ (r.x ≠ s.st.lastTx ∧ r.y ≠ s.st.lastTy) → rawSample s = .touch p r.x r.y t →
    ∃ u, exec .touchRead s = .next u ∧ u.st.sxC = l.x ∧ u.st.syC = l.y ∧
      (s.st.orient = .deg0 → u.result = some (.point l.x l.y))

/-- R274: the identity calibration, under both arithmetics: its words, its quotients, and what every raw reading maps
to. -/
def Obligations.IdentityCalibration : Prop :=
  computeCal .s64 ⟨⟨20, 20⟩, ⟨300, 120⟩, ⟨160, 220⟩⟩ = ⟨42000, 0, 0, 0, 42000, 0, 42000⟩ ∧
  computeCal .u32 ⟨⟨20, 20⟩, ⟨300, 120⟩, ⟨160, 220⟩⟩ = ⟨0xA410, 0, 0, 0, 0xA410, 0, 0xA410⟩ ∧
  (∀ tx ty : U16,
    quotS64 (numeratorS64 42000 0 0 tx ty) (42000 : BitVec 64).toInt = tx.toNat ∧
    quotS64 (numeratorS64 0 42000 0 tx ty) (42000 : BitVec 64).toInt = ty.toNat ∧
    (quotU32 (numeratorU32 0xA410 0 0 tx ty) 0xA410).toNat = tx.toNat ∧
    (quotU32 (numeratorU32 0 0xA410 0 tx ty) 0xA410).toNat = ty.toNat) ∧
  ∀ tx ty : U16, tx.toNat ≤ 1023 → ty.toNat ≤ 1023 →
    (transformX .s64 ⟨42000, 0, 0, 0, 42000, 0, 42000⟩ tx ty).toNat = min tx.toNat 319 ∧
    (transformY .s64 ⟨42000, 0, 0, 0, 42000, 0, 42000⟩ tx ty).toNat = min ty.toNat 239 ∧
    (transformX .u32 ⟨0xA410, 0, 0, 0, 0xA410, 0, 0xA410⟩ tx ty).toNat =
      (if 640 ≤ tx.toNat then 0 else min tx.toNat 319) ∧
    (transformY .u32 ⟨0xA410, 0, 0, 0, 0xA410, 0, 0xA410⟩ tx ty).toNat =
      (if 480 ≤ ty.toNat then 0 else min ty.toNat 239)

/-! ### INIT -/

/-- INIT, admitted with a bracket open and before or after a first INIT, up to its init program (R331 to R333, R336): the
block's fields, the reset pulse and its waits, DISPLAY_OFF. That the step ends there, and the controller's registers after
the pulse, are the model's choices (assumptions 1, 11). -/
def Obligations.InitEntersItsProgram : Prop :=
  ∀ (k : DivCode) (s : State), s.st.fault = none → s.st.inBatch = false →
    exec (.initBlock k) s = .next
      { State.after
          [.ev (.csd true), .ev (.cst true), .ev (.rst true), .ev (.div k), .ev (.order .msbFirst), .ev (.rst false),
           .ev (.wait 50), .ev (.rst true), .ev (.wait 120), .ev (.csd false), .w9 false 0x28]
          { s.st with
            inBatch := false, calibrated := false, lastTx := 0, lastTy := 0
            orient := .deg0, width := 320, height := 240
            dcsN := false, tcsN := true, rstN := true, dispDiv := k, div := k, order := .msbFirst
            spe := true, mosiLatch := false, sckLatch := true, ip := 0 }
          ((Ctl.afterReset (Config.freeCtl (s.draws + resetPulses s - 1))).word false 0x28)
          { s with draws := s.draws + resetPulses s } with
        activity := .initProgram, result := none }

/-- R140: the init-program instructions inside INIT's bracket. END returns to INIT. A run sends its operand bytes, which it
reads at the pointer, as words of its kind; where the ROM ends first, the bytes before the end are sent and the program
is ill-formed. A reserved kind is ill-formed. -/
def Obligations.InitProgramInstructions : Prop :=
  ∀ s : State, s.Selected →
    exec .endProgram s = .next { s with activity := .initTail } ∧
    (∀ (i : Instr) (dcx : Bool) (n : BitVec 6) (bs : List Byte),
      (i = .dataRun n ∧ dcx = true) ∨ (i = .cmdRun n ∧ dcx = false) →
      (s.rom.readList s.st.ip n.toNat = some bs →
        exec i s = .next (s.after (bs.map (.w9 dcx ·)) { s.st.latched (bs.map (dcx, ·)) with ip := s.st.ip + n.toNat }
          (s.ctl.receive (bs.map (dcx, ·))))) ∧
      (∀ k, k < n.toNat → s.rom.readList s.st.ip k = some bs → s.rom.read (s.st.ip + k) = none →
        exec i s = .next ((s.after (bs.map (.w9 dcx ·)) { s.st.latched (bs.map (dcx, ·)) with ip := s.st.ip + k }
          (s.ctl.receive (bs.map (dcx, ·)))).raise .badInitProgram))) ∧
    (∀ b, exec (.reservedInit b) s = .next (s.raise .badInitProgram))

/-- For every well-formed init program in the ROM, INIT runs to its end, in the state of R36, with the full record of R335;
what R331 writes nowhere is unchanged. The packet that carries INIT, and its running in several steps, are the model's
(assumptions 3, 1). -/
def Obligations.InitReachesInitialState : Prop :=
  ∀ (k : DivCode) (s : State) (rest : List Packet) (prog : List Byte) (runs : List InitRun),
    s.activity = .idle → s.issue = .host [0x01, k.setWidth 8] :: rest → s.st.fault = none → s.st.inBatch = false →
    (∀ j, j < prog.length → s.rom.read j = prog[j]?) → initRuns prog = some runs →
    ∃ n t, runSteps n s = .next t ∧
      t.st = { s.st with
        initDone := true, dcsN := true, tcsN := true, rstN := true, spe := true, mosiLatch := true, sckLatch := true
        div := k, dispDiv := k, order := .msbFirst, orient := .deg0, width := 320, height := 240
        inBatch := false, calibrated := false, lastTx := 0, lastTy := 0, ip := t.st.ip } ∧
      t.wire = s.wire ++ expand (initEvents k ++ asEvents (programWords runs) ++ initTailEvents)
        (s.draws + resetPulses s) ∧
      t.activity = .idle ∧ t.result = some .ok ∧ t.issue = rest ∧ t.rom = s.rom ∧ t.adc = s.adc

/-! ### Every step, from every state -/

/-- Every step keeps the invariant: R37's items and what the spec says holds of the ROM, the display memory, the
calibration, the cache and the controller. -/
def Obligations.StepKeepsInvariant : Prop := ∀ s t : State, s.Inv → step s = .next t → t.Inv

/-- The power-on state meets the invariant; its values that the spec leaves open are the model's (assumptions 7 to 10). -/
def Obligations.ResetMeetsInvariant : Prop := State.reset.Inv

/-- R37, items 1 to 5, after any number of steps from any state that meets the invariant: between host operations, with
INIT done and no fault. -/
def Obligations.BetweenOperationsItems : Prop :=
  ∀ (n : Nat) (s t : State), s.Inv → runSteps n s = .next t → t.activity = .idle → t.st.initDone = true →
    t.st.fault = none →
    t.st.spe = true ∧ t.st.tcsN = true ∧ t.st.div = t.st.dispDiv ∧ (t.st.inBatch = true → t.st.dcsN = false) ∧
    ¬(t.st.dcsN = false ∧ t.st.tcsN = false) ∧ t.st.DimsAgree

/-- From every state that meets the invariant a step answers a next state, but for a touch byte the block never sends: no
contract violation, operand or ADC answer stops the machine. The one refusal is the model's (assumption 5). -/
def Obligations.StepAlwaysAnswersNext : Prop :=
  ∀ s : State, s.Inv → (∃ t, step s = .next t) ∨
    ∃ b rest, s.activity = .idle ∧ s.issue = .touch b :: rest ∧ b ≠ 0xB8 ∧ b ≠ 0xC8 ∧ b ≠ 0xD0 ∧ b ≠ 0x90 ∧
      step s = .refused (.touchByteNotSent b)

/-- No step writes the ROM (R63), and none writes the parameters (assumption 15). A step only adds to the record (R60),
and moves the engine's enable, the latches and the bit order as the events it adds do (R24), so that the bits on the bus
can be read from the record. -/
def Obligations.RomIsNeverWritten : Prop :=
  ∀ s t : State, step s = .next t → t.rom = s.rom ∧ t.params = s.params ∧
    ∃ es, t.wire = s.wire ++ es ∧ t.line = es.foldl Line.after s.line

/-- R30, its write rule: the seven calibration words change only in the step that ends a calibration with OK, and
`calibrated` becomes true only there. -/
def Obligations.CalibrationWordsWrittenOnlyByCalibration : Prop :=
  ∀ s t : State, step s = .next t →
    t.st.cal ≠ s.st.cal ∨ (t.st.calibrated = true ∧ s.st.calibrated = false) →
    (∃ fg bg, s.activity = .polling fg bg) ∧ s.st.calI = 2 ∧ t.st.calibrated = true ∧ t.result = some .ok ∧
      t.st.lastTx = 0 ∧ t.st.lastTy = 0

/-- The display divisor changes only in a step that accepts INIT, and becomes the divisor passed to it (R26). The packet
that carries INIT and its divisor is the model's layout (assumption 3). -/
def Obligations.DisplayDivisorWrittenOnlyByInit : Prop :=
  ∀ s t : State, step s = .next t → t.st.dispDiv ≠ s.st.dispDiv →
    ∃ k rest, s.activity = .idle ∧ s.issue = .host [0x01, k] :: rest ∧ t.st.dispDiv = k.setWidth 3 ∧
      t.activity = .initProgram

/-- While the block is not calibrated no calibration word is read (R30, R37 item 6). Two states that differ only in these
words answer every instruction, and every step, a poll of a calibration and INIT's last part included, with states that
differ only in them; and a step that commits a calibration leaves the same state in both. -/
def Obligations.UncalibratedWordsAreNeverRead : Prop :=
  ∀ (s s' : State) (w : CalWords), s.st.calibrated = false → s' = s.onSt (fun b => { b with cal := w }) →
    (∀ i t, exec i s = .next t → exec i s' = .next (t.onSt (fun b => { b with cal := w }))) ∧
    (∀ t, step s = .next t →
      step s' = .next (if t.st.calibrated then t else t.onSt (fun b => { b with cal := w }))) ∧
    ((∀ t, step s ≠ .next t) → step s' = step s)

/-- The power-on values R35 gives; and that no operation but INIT is admitted at power-on, so no other value is
observable. -/
def Obligations.PowerOnValues : Prop :=
  State.reset.st.initDone = false ∧ State.reset.st.fault = none ∧ State.reset.st.inBatch = false ∧
  State.reset.st.calibrated = false ∧ State.reset.st.lastTx = 0 ∧ State.reset.st.lastTy = 0 ∧
  ∀ (b : Block) (i : Instr), b.initDone = false → b.fault = none → i.space = .host → (∀ k, i ≠ .initBlock k) →
    exec i { State.reset with st := b } = .next (({ State.reset with st := b } : State).raise .notInit)

end Statements
end

