-- ==== Sys2Proof/Laws/State.lean ====
section
/-! SUPPORT. One lemma for each field of State under each state write, so that no proof unfolds a record update. -/

namespace Sys2Proof.Machine

section Updates

variable (s : State)

@[simp] theorem State.emit_st (e : WireEvent) : (State.emit e s).st = s.st := rfl
@[simp] theorem State.emit_ctl (e : WireEvent) : (State.emit e s).ctl = s.ctl := rfl
@[simp] theorem State.emit_rom (e : WireEvent) : (State.emit e s).rom = s.rom := rfl
@[simp] theorem State.emit_wireRev (e : WireEvent) : (State.emit e s).wireRev = e :: s.wireRev := rfl
@[simp] theorem State.emit_params (e : WireEvent) : (State.emit e s).params = s.params := rfl
@[simp] theorem State.emit_activity (e : WireEvent) : (State.emit e s).activity = s.activity := rfl
@[simp] theorem State.emit_issue (e : WireEvent) : (State.emit e s).issue = s.issue := rfl
@[simp] theorem State.emit_result (e : WireEvent) : (State.emit e s).result = s.result := rfl
@[simp] theorem State.emit_adc (e : WireEvent) : (State.emit e s).adc = s.adc := rfl
@[simp] theorem State.emit_draws (e : WireEvent) : (State.emit e s).draws = s.draws := rfl

@[simp] theorem State.writeDcs_st (v : Bool) : (State.writeDcs v s).st = { s.st with dcsN := v } := rfl
@[simp] theorem State.writeDcs_ctl (v : Bool) : (State.writeDcs v s).ctl = s.ctl := rfl
@[simp] theorem State.writeDcs_rom (v : Bool) : (State.writeDcs v s).rom = s.rom := rfl
@[simp] theorem State.writeDcs_wireRev (v : Bool) : (State.writeDcs v s).wireRev = .csd v :: s.wireRev := rfl
@[simp] theorem State.writeDcs_params (v : Bool) : (State.writeDcs v s).params = s.params := rfl
@[simp] theorem State.writeDcs_activity (v : Bool) : (State.writeDcs v s).activity = s.activity := rfl
@[simp] theorem State.writeDcs_issue (v : Bool) : (State.writeDcs v s).issue = s.issue := rfl
@[simp] theorem State.writeDcs_result (v : Bool) : (State.writeDcs v s).result = s.result := rfl
@[simp] theorem State.writeDcs_adc (v : Bool) : (State.writeDcs v s).adc = s.adc := rfl
@[simp] theorem State.writeDcs_draws (v : Bool) : (State.writeDcs v s).draws = s.draws := rfl

@[simp] theorem State.writeTcs_st (v : Bool) : (State.writeTcs v s).st = { s.st with tcsN := v } := rfl
@[simp] theorem State.writeTcs_ctl (v : Bool) : (State.writeTcs v s).ctl = s.ctl := rfl
@[simp] theorem State.writeTcs_rom (v : Bool) : (State.writeTcs v s).rom = s.rom := rfl
@[simp] theorem State.writeTcs_wireRev (v : Bool) : (State.writeTcs v s).wireRev = .cst v :: s.wireRev := rfl
@[simp] theorem State.writeTcs_params (v : Bool) : (State.writeTcs v s).params = s.params := rfl
@[simp] theorem State.writeTcs_activity (v : Bool) : (State.writeTcs v s).activity = s.activity := rfl
@[simp] theorem State.writeTcs_issue (v : Bool) : (State.writeTcs v s).issue = s.issue := rfl
@[simp] theorem State.writeTcs_result (v : Bool) : (State.writeTcs v s).result = s.result := rfl
@[simp] theorem State.writeTcs_adc (v : Bool) : (State.writeTcs v s).adc = s.adc := rfl
@[simp] theorem State.writeTcs_draws (v : Bool) : (State.writeTcs v s).draws = s.draws := rfl

@[simp] theorem State.writeRst_st (v : Bool) : (State.writeRst v s).st = { s.st with rstN := v } := by unfold State.writeRst; dsimp only; split <;> rfl
@[simp] theorem State.writeRst_ctl (v : Bool) : (State.writeRst v s).ctl = if v && !s.st.rstN then Ctl.afterReset (Config.freeCtl s.draws) else s.ctl := by unfold State.writeRst; dsimp only; split <;> simp_all [State.emit]
@[simp] theorem State.writeRst_rom (v : Bool) : (State.writeRst v s).rom = s.rom := by unfold State.writeRst; dsimp only; split <;> rfl
@[simp] theorem State.writeRst_wireRev (v : Bool) : (State.writeRst v s).wireRev = .rst v :: s.wireRev := by unfold State.writeRst; dsimp only; split <;> rfl
@[simp] theorem State.writeRst_params (v : Bool) : (State.writeRst v s).params = s.params := by unfold State.writeRst; dsimp only; split <;> rfl
@[simp] theorem State.writeRst_activity (v : Bool) : (State.writeRst v s).activity = s.activity := by unfold State.writeRst; dsimp only; split <;> rfl
@[simp] theorem State.writeRst_issue (v : Bool) : (State.writeRst v s).issue = s.issue := by unfold State.writeRst; dsimp only; split <;> rfl
@[simp] theorem State.writeRst_result (v : Bool) : (State.writeRst v s).result = s.result := by unfold State.writeRst; dsimp only; split <;> rfl
@[simp] theorem State.writeRst_adc (v : Bool) : (State.writeRst v s).adc = s.adc := by unfold State.writeRst; dsimp only; split <;> rfl
@[simp] theorem State.writeRst_draws (v : Bool) : (State.writeRst v s).draws = if v && !s.st.rstN then s.draws + 1 else s.draws := by unfold State.writeRst; dsimp only; split <;> simp_all [State.emit]

@[simp] theorem State.writeDiv_st (k : DivCode) : (State.writeDiv k s).st = { s.st with div := k } := rfl
@[simp] theorem State.writeDiv_ctl (k : DivCode) : (State.writeDiv k s).ctl = s.ctl := rfl
@[simp] theorem State.writeDiv_rom (k : DivCode) : (State.writeDiv k s).rom = s.rom := rfl
@[simp] theorem State.writeDiv_wireRev (k : DivCode) : (State.writeDiv k s).wireRev = .div k :: s.wireRev := rfl
@[simp] theorem State.writeDiv_params (k : DivCode) : (State.writeDiv k s).params = s.params := rfl
@[simp] theorem State.writeDiv_activity (k : DivCode) : (State.writeDiv k s).activity = s.activity := rfl
@[simp] theorem State.writeDiv_issue (k : DivCode) : (State.writeDiv k s).issue = s.issue := rfl
@[simp] theorem State.writeDiv_result (k : DivCode) : (State.writeDiv k s).result = s.result := rfl
@[simp] theorem State.writeDiv_adc (k : DivCode) : (State.writeDiv k s).adc = s.adc := rfl
@[simp] theorem State.writeDiv_draws (k : DivCode) : (State.writeDiv k s).draws = s.draws := rfl

@[simp] theorem State.writeOrder_st (o : BitOrder) : (State.writeOrder o s).st = { s.st with order := o } := rfl
@[simp] theorem State.writeOrder_ctl (o : BitOrder) : (State.writeOrder o s).ctl = s.ctl := rfl
@[simp] theorem State.writeOrder_rom (o : BitOrder) : (State.writeOrder o s).rom = s.rom := rfl
@[simp] theorem State.writeOrder_wireRev (o : BitOrder) : (State.writeOrder o s).wireRev = .order o :: s.wireRev := rfl
@[simp] theorem State.writeOrder_params (o : BitOrder) : (State.writeOrder o s).params = s.params := rfl
@[simp] theorem State.writeOrder_activity (o : BitOrder) : (State.writeOrder o s).activity = s.activity := rfl
@[simp] theorem State.writeOrder_issue (o : BitOrder) : (State.writeOrder o s).issue = s.issue := rfl
@[simp] theorem State.writeOrder_result (o : BitOrder) : (State.writeOrder o s).result = s.result := rfl
@[simp] theorem State.writeOrder_adc (o : BitOrder) : (State.writeOrder o s).adc = s.adc := rfl
@[simp] theorem State.writeOrder_draws (o : BitOrder) : (State.writeOrder o s).draws = s.draws := rfl

@[simp] theorem State.writeMosi_st (v : Bool) : (State.writeMosi v s).st = { s.st with mosiLatch := v } := rfl
@[simp] theorem State.writeMosi_ctl (v : Bool) : (State.writeMosi v s).ctl = s.ctl := rfl
@[simp] theorem State.writeMosi_rom (v : Bool) : (State.writeMosi v s).rom = s.rom := rfl
@[simp] theorem State.writeMosi_wireRev (v : Bool) : (State.writeMosi v s).wireRev = .mosi v :: s.wireRev := rfl
@[simp] theorem State.writeMosi_params (v : Bool) : (State.writeMosi v s).params = s.params := rfl
@[simp] theorem State.writeMosi_activity (v : Bool) : (State.writeMosi v s).activity = s.activity := rfl
@[simp] theorem State.writeMosi_issue (v : Bool) : (State.writeMosi v s).issue = s.issue := rfl
@[simp] theorem State.writeMosi_result (v : Bool) : (State.writeMosi v s).result = s.result := rfl
@[simp] theorem State.writeMosi_adc (v : Bool) : (State.writeMosi v s).adc = s.adc := rfl
@[simp] theorem State.writeMosi_draws (v : Bool) : (State.writeMosi v s).draws = s.draws := rfl

@[simp] theorem State.writeSck_st (v : Bool) : (State.writeSck v s).st = { s.st with sckLatch := v } := rfl
@[simp] theorem State.writeSck_ctl (v : Bool) : (State.writeSck v s).ctl = s.ctl := rfl
@[simp] theorem State.writeSck_rom (v : Bool) : (State.writeSck v s).rom = s.rom := rfl
@[simp] theorem State.writeSck_wireRev (v : Bool) : (State.writeSck v s).wireRev = .sck v :: s.wireRev := rfl
@[simp] theorem State.writeSck_params (v : Bool) : (State.writeSck v s).params = s.params := rfl
@[simp] theorem State.writeSck_activity (v : Bool) : (State.writeSck v s).activity = s.activity := rfl
@[simp] theorem State.writeSck_issue (v : Bool) : (State.writeSck v s).issue = s.issue := rfl
@[simp] theorem State.writeSck_result (v : Bool) : (State.writeSck v s).result = s.result := rfl
@[simp] theorem State.writeSck_adc (v : Bool) : (State.writeSck v s).adc = s.adc := rfl
@[simp] theorem State.writeSck_draws (v : Bool) : (State.writeSck v s).draws = s.draws := rfl

@[simp] theorem State.writeSpe_st (v : Bool) : (State.writeSpe v s).st = { s.st with spe := v } := rfl
@[simp] theorem State.writeSpe_ctl (v : Bool) : (State.writeSpe v s).ctl = s.ctl := rfl
@[simp] theorem State.writeSpe_rom (v : Bool) : (State.writeSpe v s).rom = s.rom := rfl
@[simp] theorem State.writeSpe_wireRev (v : Bool) : (State.writeSpe v s).wireRev = .spe v :: s.wireRev := rfl
@[simp] theorem State.writeSpe_params (v : Bool) : (State.writeSpe v s).params = s.params := rfl
@[simp] theorem State.writeSpe_activity (v : Bool) : (State.writeSpe v s).activity = s.activity := rfl
@[simp] theorem State.writeSpe_issue (v : Bool) : (State.writeSpe v s).issue = s.issue := rfl
@[simp] theorem State.writeSpe_result (v : Bool) : (State.writeSpe v s).result = s.result := rfl
@[simp] theorem State.writeSpe_adc (v : Bool) : (State.writeSpe v s).adc = s.adc := rfl
@[simp] theorem State.writeSpe_draws (v : Bool) : (State.writeSpe v s).draws = s.draws := rfl

@[simp] theorem State.setResult_st (r : OpResult) : (State.setResult r s).st = s.st := rfl
@[simp] theorem State.setResult_ctl (r : OpResult) : (State.setResult r s).ctl = s.ctl := rfl
@[simp] theorem State.setResult_rom (r : OpResult) : (State.setResult r s).rom = s.rom := rfl
@[simp] theorem State.setResult_wireRev (r : OpResult) : (State.setResult r s).wireRev = s.wireRev := rfl
@[simp] theorem State.setResult_params (r : OpResult) : (State.setResult r s).params = s.params := rfl
@[simp] theorem State.setResult_activity (r : OpResult) : (State.setResult r s).activity = s.activity := rfl
@[simp] theorem State.setResult_issue (r : OpResult) : (State.setResult r s).issue = s.issue := rfl
@[simp] theorem State.setResult_result (r : OpResult) : (State.setResult r s).result = some r := rfl
@[simp] theorem State.setResult_adc (r : OpResult) : (State.setResult r s).adc = s.adc := rfl
@[simp] theorem State.setResult_draws (r : OpResult) : (State.setResult r s).draws = s.draws := rfl

@[simp] theorem State.raise_st (c : FaultCode) : (State.raise c s).st = { s.st with fault := match s.st.fault with | none => some c | some d => some d } := rfl
@[simp] theorem State.raise_ctl (c : FaultCode) : (State.raise c s).ctl = s.ctl := rfl
@[simp] theorem State.raise_rom (c : FaultCode) : (State.raise c s).rom = s.rom := rfl
@[simp] theorem State.raise_wireRev (c : FaultCode) : (State.raise c s).wireRev = s.wireRev := rfl
@[simp] theorem State.raise_params (c : FaultCode) : (State.raise c s).params = s.params := rfl
@[simp] theorem State.raise_activity (c : FaultCode) : (State.raise c s).activity = .idle := rfl
@[simp] theorem State.raise_issue (c : FaultCode) : (State.raise c s).issue = s.issue := rfl
@[simp] theorem State.raise_result (c : FaultCode) : (State.raise c s).result = some (.faulted c) := rfl
@[simp] theorem State.raise_adc (c : FaultCode) : (State.raise c s).adc = s.adc := rfl
@[simp] theorem State.raise_draws (c : FaultCode) : (State.raise c s).draws = s.draws := rfl

@[simp] theorem exchanged_st (o r : Byte) : (exchanged o r s).st = s.st := rfl
@[simp] theorem exchanged_ctl (o r : Byte) : (exchanged o r s).ctl = s.ctl := rfl
@[simp] theorem exchanged_rom (o r : Byte) : (exchanged o r s).rom = s.rom := rfl
@[simp] theorem exchanged_wireRev (o r : Byte) : (exchanged o r s).wireRev = .x8 o r :: s.wireRev := rfl
@[simp] theorem exchanged_params (o r : Byte) : (exchanged o r s).params = s.params := rfl
@[simp] theorem exchanged_activity (o r : Byte) : (exchanged o r s).activity = s.activity := rfl
@[simp] theorem exchanged_issue (o r : Byte) : (exchanged o r s).issue = s.issue := rfl
@[simp] theorem exchanged_result (o r : Byte) : (exchanged o r s).result = s.result := rfl
@[simp] theorem exchanged_adc (o r : Byte) : (exchanged o r s).adc = s.adc := rfl
@[simp] theorem exchanged_draws (o r : Byte) : (exchanged o r s).draws = s.draws + 1 := rfl

/-! The line (R24, R25): each write moves it as its event does. -/

/-- The SCK level of a state (R24). -/
theorem State.sckPin_eq : s.sckPin = if s.st.spe then false else s.st.sckLatch := rfl

@[simp] theorem State.emit_line (e : WireEvent) : (State.emit e s).line = s.line := rfl
@[simp] theorem State.writeDcs_line (v : Bool) : (State.writeDcs v s).line = s.line := rfl
@[simp] theorem State.writeTcs_line (v : Bool) : (State.writeTcs v s).line = s.line := rfl
@[simp] theorem State.writeRst_line (v : Bool) : (State.writeRst v s).line = s.line := by
  unfold State.writeRst; dsimp only; split <;> rfl
@[simp] theorem State.writeDiv_line (k : DivCode) : (State.writeDiv k s).line = s.line := rfl
@[simp] theorem State.writeMosi_line (v : Bool) : (State.writeMosi v s).line = s.line.after (.mosi v) := rfl
@[simp] theorem State.writeSck_line (v : Bool) : (State.writeSck v s).line = s.line.after (.sck v) := rfl
@[simp] theorem State.writeSpe_line (v : Bool) : (State.writeSpe v s).line = s.line.after (.spe v) := rfl
@[simp] theorem State.setResult_line (r : OpResult) : (State.setResult r s).line = s.line := rfl
@[simp] theorem State.raise_line (c : FaultCode) : (State.raise c s).line = s.line := rfl

end Updates

end Sys2Proof.Machine
end

