-- ==== Sys2Proof/Laws/Ops.lean ====
section
/-! SUPPORT. What each shared operation can do, said once: the record, the word, sequences of words, brackets, the
prelude. Each lemma gives the whole state after, so it says what changes and what does not. -/

namespace Sys2Proof.Machine

/-! ### The record -/

theorem expand_append (es fs : List WordEvent) (d : Nat) :
    expand (es ++ fs) d = expand es d ++ expand fs (d + wordCount es) := by
  induction es generalizing d with
  | nil => simp [expand, wordCount]
  | cons e es ih =>
    cases e with
    | w9 dcx b => simp [expand, wordCount, ih, Nat.add_assoc, Nat.add_comm 1]
    | ev e => simp [expand, wordCount, ih]

@[simp] theorem wordCount_append (es fs : List WordEvent) : wordCount (es ++ fs) = wordCount es + wordCount fs := by
  induction es with
  | nil => simp [wordCount]
  | cons e es ih => cases e <;> simp [wordCount, ih]; omega

@[simp] theorem wordCount_asEvents (ws : List (Bool × Byte)) : wordCount (asEvents ws) = ws.length := by
  induction ws with
  | nil => rfl
  | cons w ws ih => simpa [asEvents, wordCount] using ih

@[simp] theorem asEvents_append (ws vs : List (Bool × Byte)) : asEvents (ws ++ vs) = asEvents ws ++ asEvents vs := by
  simp [asEvents]

/-! ### The bits of the record -/

theorem Line.clocked_append (l : Line) (es fs : List WireEvent) :
    l.clocked (es ++ fs) = l.clocked es ++ Line.clocked (es.foldl Line.after l) fs := by
  induction es generalizing l with
  | nil => rfl
  | cons e es ih => simp [Line.clocked, ih]

/-- The line a word leaves: the engine on, the SCK latch at 1, the MOSI latch at the D/CX bit (R131). -/
theorem Line.after_wordExpansion (l : Line) (dcx : Bool) (b r : Byte) :
    (wordExpansion dcx b r).foldl Line.after l = { l with spe := true, mosi := dcx, sck := true } := rfl

/-- A word clocks its D/CX bit on the one edge of the pre-bit, then its payload, whatever the line stood at (R65, R131). -/
theorem Line.clocked_wordExpansion (l : Line) (dcx : Bool) (b r : Byte) :
    l.clocked (wordExpansion dcx b r)
      = (dcx, none) :: (serialBits l.order b).zip ((serialBits l.order r).map some) := by
  obtain ⟨spe, mosi, sck, order⟩ := l
  cases spe <;> cases sck <;> simp [wordExpansion, Line.clocked, Line.bits, Line.after, Line.sckPin]

/-- One sequence after another is the two in order. -/
@[simp] theorem State.after_after (es fs : List WordEvent) (b b' : Block) (c c' : Ctl) (s : State) :
    (s.after es b c).after fs b' c' = s.after (es ++ fs) b' c' := by
  simp [State.after, expand_append, Nat.add_assoc]

/-- The record read forwards. -/
theorem State.wire_after (es : List WordEvent) (b : Block) (c : Ctl) (s : State) :
    (s.after es b c).wire = s.wire ++ expand es s.draws := by
  simp [State.after, State.wire]

@[simp] theorem State.after_st (es : List WordEvent) (b : Block) (c : Ctl) (s : State) : (s.after es b c).st = b := rfl
@[simp] theorem State.after_ctl (es : List WordEvent) (b : Block) (c : Ctl) (s : State) : (s.after es b c).ctl = c := rfl
@[simp] theorem State.after_draws (es : List WordEvent) (b : Block) (c : Ctl) (s : State) :
    (s.after es b c).draws = s.draws + wordCount es := rfl
@[simp] theorem State.after_rom (es : List WordEvent) (b : Block) (c : Ctl) (s : State) :
    (s.after es b c).rom = s.rom := rfl
@[simp] theorem State.after_params (es : List WordEvent) (b : Block) (c : Ctl) (s : State) :
    (s.after es b c).params = s.params := rfl
@[simp] theorem State.after_activity (es : List WordEvent) (b : Block) (c : Ctl) (s : State) :
    (s.after es b c).activity = s.activity := rfl
@[simp] theorem State.after_issue (es : List WordEvent) (b : Block) (c : Ctl) (s : State) :
    (s.after es b c).issue = s.issue := rfl
@[simp] theorem State.after_result (es : List WordEvent) (b : Block) (c : Ctl) (s : State) :
    (s.after es b c).result = s.result := rfl
@[simp] theorem State.after_adc (es : List WordEvent) (b : Block) (c : Ctl) (s : State) :
    (s.after es b c).adc = s.adc := rfl

/-- A state is itself after nothing. -/
theorem State.after_nil (s : State) : s.after [] s.st s.ctl = s := rfl

/-- Writing the block record is a sequence of no events. -/
theorem State.set_st (b : Block) (s : State) : { s with st := b } = s.after [] b s.ctl := rfl

theorem State.writeDcs_after (v : Bool) (s : State) :
    State.writeDcs v s = s.after [.ev (.csd v)] { s.st with dcsN := v } s.ctl := rfl

/-! ### Flow -/

@[simp] theorem Flow.andThen_go (s : State) (k : State → Flow) : (Flow.go s).andThen k = k s := rfl
@[simp] theorem Flow.andThen_stop (s : State) (k : State → Flow) : (Flow.stop s).andThen k = .stop s := rfl
@[simp] theorem Flow.map_go (s : State) (k : State → State) : (Flow.go s).map k = .go (k s) := rfl
@[simp] theorem Flow.map_stop (s : State) (k : State → State) : (Flow.stop s).map k = .stop s := rfl
@[simp] theorem Flow.final_go (s : State) : (Flow.go s).final = s := rfl
@[simp] theorem Flow.final_stop (s : State) : (Flow.stop s).final = s := rfl

/-! ### Words -/

/-- A word with the chip-select asserted: the pre-bit and the payload on the record, the latches, the controller. -/
theorem word_go (dcx : Bool) (b : Byte) (s : State) (h : s.st.dcsN = false) :
    word dcx b s = .go (s.after [.w9 dcx b] (s.st.afterWord dcx) (s.ctl.word dcx b)) := by
  simp [word, h, Block.afterWord, sendWord, deliver, payload, exchanged, preBit, State.writeSpe, State.writeSck,
    State.writeMosi, State.emit, State.after, expand, wordExpansion, wordCount]

/-- A word with the chip-select deasserted faults before any pin is touched. -/
theorem word_stop (dcx : Bool) (b : Byte) (s : State) (h : s.st.dcsN = true) :
    word dcx b s = .stop (s.raise .bracket) := by
  simp [word, h, fail]

@[simp] theorem Ctl.receive_nil (c : Ctl) : c.receive [] = c := rfl
@[simp] theorem Ctl.receive_cons (c : Ctl) (w : Bool × Byte) (ws : List (Bool × Byte)) :
    c.receive (w :: ws) = (c.word w.1 w.2).receive ws := rfl
theorem Ctl.receive_append (c : Ctl) (ws vs : List (Bool × Byte)) :
    c.receive (ws ++ vs) = (c.receive ws).receive vs := by
  simp [Ctl.receive]

@[simp] theorem Block.afterWord_afterWord (d e : Bool) (b : Block) : (b.afterWord d).afterWord e = b.afterWord e := rfl

@[simp] theorem Block.latched_nil (b : Block) : b.latched [] = b := rfl

theorem Block.latched_cons (w : Bool × Byte) (ws : List (Bool × Byte)) (b : Block) :
    b.latched (w :: ws) = Block.latched ws (b.afterWord w.1) := by
  cases ws with
  | nil => rfl
  | cons v vs => simp [Block.latched, List.getLast?_cons_cons]; split <;> simp_all

theorem Block.latched_append (ws vs : List (Bool × Byte)) (b : Block) :
    b.latched (ws ++ vs) = (b.latched ws).latched vs := by
  induction ws generalizing b with
  | nil => rfl
  | cons w ws ih => rw [List.cons_append, Block.latched_cons, Block.latched_cons, ih]

theorem Block.latched_concat (ws : List (Bool × Byte)) (w : Bool × Byte) (b : Block) :
    b.latched (ws ++ [w]) = b.afterWord w.1 := by
  simp [Block.latched]

/-- Latching commutes with writing the chip-select. -/
theorem Block.latched_with_dcsN (ws : List (Bool × Byte)) (b : Block) (v : Bool) :
    Block.latched ws { b with dcsN := v } = { b.latched ws with dcsN := v } := by
  unfold Block.latched; split <;> rfl

/-- Words with the chip-select asserted. -/
theorem words_go (ws : List (Bool × Byte)) (s : State) (h : s.st.dcsN = false) :
    words ws s = .go (s.after (asEvents ws) (s.st.latched ws) (s.ctl.receive ws)) := by
  induction ws generalizing s with
  | nil => rfl
  | cons w ws ih =>
    rw [words, word_go w.1 w.2 s h, Flow.andThen_go, ih _ (by exact h), State.after_after, Block.latched_cons]
    rfl

/-- One bracket of its own: the chip-select ends deasserted. -/
theorem bracketed_go (ws : List (Bool × Byte)) (s : State) :
    bracketed ws s =
      .go (s.after (bracketEvents ws) { s.st.latched ws with dcsN := true } (s.ctl.receive ws)) := by
  rw [bracketed, State.writeDcs_after, words_go ws _ (by rfl), Flow.map_go, State.writeDcs_after]
  simp [bracketEvents, Block.latched_with_dcsN]

/-! ### The prelude (R304) -/

/-- A host operation in a stuck block: only the outcome. -/
theorem hostOp_stuck (k : OpClass) (body : State → Flow) (s : State) (c : FaultCode) (h : s.st.fault = some c) :
    hostOp k body s = s.setResult (.faulted c) := by
  simp [hostOp, h]

/-- A host operation before INIT. -/
theorem hostOp_notInit (k : OpClass) (body : State → Flow) (s : State) (hf : s.st.fault = none) (hk : k ≠ .init)
    (hi : s.st.initDone = false) : hostOp k body s = s.raise .notInit := by
  simp [hostOp, hf, hk, hi]

/-- An operation the prelude admits runs its body. -/
theorem hostOp_admitted (k : OpClass) (body : State → Flow) (s : State) (hf : s.st.fault = none)
    (hi : k = .init ∨ s.st.initDone = true) (hb : k = .batch ∨ s.st.inBatch = false) :
    hostOp k body s = (body s).final := by
  cases k <;> cases hi' : s.st.initDone <;> cases hb' : s.st.inBatch <;> simp_all [hostOp]

/-- Everything the prelude can do. -/
theorem hostOp_cases (k : OpClass) (body : State → Flow) (s : State) :
    (∃ c, s.st.fault = some c ∧ hostOp k body s = s.setResult (.faulted c)) ∨
    (s.st.fault = none ∧ hostOp k body s = s.raise .notInit) ∨
    (s.st.fault = none ∧ hostOp k body s = s.raise .batch) ∨
    (s.st.fault = none ∧ (k = .init ∨ s.st.initDone = true) ∧ (k = .batch ∨ s.st.inBatch = false) ∧
      hostOp k body s = (body s).final) := by
  unfold hostOp
  cases hf : s.st.fault with
  | some c => exact .inl ⟨c, rfl, rfl⟩
  | none =>
    right
    cases k <;> cases hi : s.st.initDone <;> cases hb : s.st.inBatch <;> simp

/-- A part of an operation run as a step, in a block that is not stuck. -/
theorem stepOp_admitted (body : State → Flow) (s : State) (hf : s.st.fault = none) :
    stepOp body s = (body s).final := by
  simp [stepOp, hf]

end Sys2Proof.Machine
end

