-- ==== Sys2Proof/Laws/Display.lean ====
section
/-! SUPPORT. What each display sequence can do, said once: the whole state after it. -/

namespace Sys2Proof.Machine

@[simp] theorem wordCount_bracketEvents (ws : List (Bool × Byte)) : wordCount (bracketEvents ws) = ws.length := by
  simp [bracketEvents, wordCount]

theorem latched_rangeWords (c : Byte) (v0 v1 : U16) (b : Block) :
    b.latched (rangeWords c v0 v1) = b.afterWord true := rfl

theorem latched_dataWords16 (v : U16) (b : Block) : b.latched (dataWords16 v) = b.afterWord true := rfl

/-- SET_AREA (R160). -/
theorem setArea_go (x0 y0 x1 y1 : U16) (s : State) :
    setArea x0 y0 x1 y1 s = .go (s.after (areaEvents x0 y0 x1 y1) { s.st.afterWord true with dcsN := true }
      (s.ctl.receive (areaWords x0 y0 x1 y1))) := by
  rw [setArea, bracketed_go, Flow.andThen_go, bracketed_go, State.after_after, latched_rangeWords, latched_rangeWords]
  rw [areaWords, Ctl.receive_append]
  rfl

/-- BATCH_START where its window is legal and no bracket is open (R161). -/
theorem batchStartBody_go (x y w h : U16) (s : State) (hd : s.st.dcsN = true) (hx : rangeOk x w = true)
    (hy : rangeOk y h = true) :
    batchStartBody x y w h s = .go (s.after
      (areaEvents x y (rangeEnd x w) (rangeEnd y h) ++ [.ev (.csd false), .w9 false 0x2C])
      { s.st.afterWord false with dcsN := false, inBatch := true }
      (s.ctl.receive (areaWords x y (rangeEnd x w) (rangeEnd y h) ++ [(false, 0x2C)]))) := by
  rw [batchStartBody, requireNoBracket, if_pos hd]
  simp only [hx, hy, Bool.and_self, if_true]
  rw [setArea_go, Flow.map_go, State.writeDcs_after, Flow.andThen_go, word_go _ _ _ (by rfl), Flow.map_go,
    State.set_st]
  simp [Ctl.receive_append, Block.afterWord]

/-- BATCH_START inside a bracket. -/
theorem batchStartBody_bracket (x y w h : U16) (s : State) (hd : s.st.dcsN = false) :
    batchStartBody x y w h s = .stop (s.raise .bracket) := by
  simp [batchStartBody, requireNoBracket, hd, fail]

/-- BATCH_START with an empty or too large window. -/
theorem batchStartBody_badOperand (x y w h : U16) (s : State) (hd : s.st.dcsN = true)
    (hr : (rangeOk x w && rangeOk y h) = false) :
    batchStartBody x y w h s = .stop (s.raise .badOperand) := by
  simp only [batchStartBody, requireNoBracket, hd, hr, fail]; simp

/-- BATCH_DRAW in a batch (R162). -/
theorem batchDrawBody_go (c : U16) (s : State) (hb : s.st.inBatch = true) (hd : s.st.dcsN = false) :
    batchDrawBody c s =
      .go (s.after (asEvents (dataWords16 c)) (s.st.afterWord true) (s.ctl.receive (dataWords16 c))) := by
  rw [batchDrawBody, if_pos hb, words_go _ _ hd, latched_dataWords16]

theorem pixelWords_replicate_succ (n : Nat) (c : U16) :
    pixelWords (List.replicate (n + 1) c) = dataWords16 c ++ pixelWords (List.replicate n c) := by
  simp [pixelWords, List.replicate_succ]

/-- A run of one colour in a batch. -/
theorem drawTimes_go (c : U16) (n : Nat) (s : State) (hb : s.st.inBatch = true) (hd : s.st.dcsN = false) :
    drawTimes c n s = .go (s.after (asEvents (pixelWords (List.replicate n c)))
      (if n = 0 then s.st else s.st.afterWord true) (s.ctl.receive (pixelWords (List.replicate n c)))) := by
  induction n generalizing s with
  | zero => rfl
  | succ n ih =>
    rw [drawTimes, batchDrawBody_go c s hb hd, Flow.andThen_go, ih _ (by exact hb) (by exact hd),
      pixelWords_replicate_succ, State.after_after, Ctl.receive_append, asEvents_append]
    simp

/-- BATCH_STOP in a batch (R163). -/
theorem batchStopBody_go (s : State) (hb : s.st.inBatch = true) :
    batchStopBody s = .go (s.after [.ev (.csd true)] { s.st with dcsN := true, inBatch := false } s.ctl) := by
  rw [batchStopBody, if_pos hb]
  rfl

/-- A whole batch of `n` pixels of one colour from outside a batch: the block is as before but for the latches
(R161 to R163). -/
theorem solidBatch_go (r : Rect) (c : U16) (n : Nat) (s : State) (hd : s.st.dcsN = true)
    (hx : rangeOk r.x r.w = true) (hy : rangeOk r.y r.h = true) :
    solidBatch r c n s = .go (s.after (batchEvents r (List.replicate n c))
      { s.st.afterWord (decide (0 < n)) with dcsN := true, inBatch := false }
      (s.ctl.receive (batchWords r (List.replicate n c)))) := by
  rw [solidBatch, batchStartBody_go _ _ _ _ _ hd hx hy, Flow.andThen_go,
    drawTimes_go _ _ _ (by rfl) (by rfl), Flow.andThen_go,
    batchStopBody_go _ (by simp only [State.after_st]; split <;> rfl)]
  have hst : ∀ b : Block, { (if n = 0 then { b.afterWord false with dcsN := false, inBatch := true }
      else Block.afterWord true { b.afterWord false with dcsN := false, inBatch := true }) with
      dcsN := true, inBatch := false } = { b.afterWord (decide (0 < n)) with dcsN := true, inBatch := false } := by
    intro b; cases n <;> rfl
  simp only [State.after_after, State.after_st, State.after_ctl, hst]
  simp [batchEvents, batchWords, bracketEvents, asEvents, Ctl.receive_append]

/-- A range clamped into a dimension is a legal range (R165, R172). -/
theorem rangeOk_clamp (dim v n : Nat) (hd : dim ≤ 0xFFFF) (h0 : 0 < dim)
    (h : BitVec.ofNat 16 (clampSize dim (clampStart dim v) n) ≠ 0) :
    rangeOk (BitVec.ofNat 16 (clampStart dim v)) (BitVec.ofNat 16 (clampSize dim (clampStart dim v) n)) = true := by
  have h1 : clampStart dim v < dim := by unfold clampStart; split <;> omega
  have h2 : clampStart dim v + clampSize dim (clampStart dim v) n ≤ dim := by unfold clampSize; split <;> omega
  simp only [rangeOk, Bool.and_eq_true, bne_iff_ne, ne_eq, decide_eq_true_eq, BitVec.toNat_ofNat]
  refine ⟨h, ?_⟩
  rw [Nat.mod_eq_of_lt (by omega), Nat.mod_eq_of_lt (by omega)]
  omega

/-- FILL_RECT with no bracket open, where the clamped size is not empty (R166). -/
theorem fillRectBody_go (r : Rect) (c : U16) (s : State) (hd : s.st.dcsN = true) (hw : 0 < s.st.width.toNat)
    (hh : 0 < s.st.height.toNat) (qw : (clampRect s.st.width s.st.height r).w ≠ 0)
    (qh : (clampRect s.st.width s.st.height r).h ≠ 0) :
    fillRectBody r c s = .go (s.after
      (batchEvents (clampRect s.st.width s.st.height r) (List.replicate
        ((clampRect s.st.width s.st.height r).w.toNat * (clampRect s.st.width s.st.height r).h.toNat) c))
      { s.st.afterWord true with dcsN := true, inBatch := false }
      (s.ctl.receive (batchWords (clampRect s.st.width s.st.height r) (List.replicate
        ((clampRect s.st.width s.st.height r).w.toNat * (clampRect s.st.width s.st.height r).h.toNat) c)))) := by
  rw [fillRectBody, requireNoBracket, if_pos hd]
  simp only [qw, qh, or_self, if_false]
  rw [solidBatch_go _ _ _ _ hd]
  · have h1 : 0 < (clampRect s.st.width s.st.height r).w.toNat := by
      rw [Nat.pos_iff_ne_zero]; intro h; exact qw (BitVec.eq_of_toNat_eq (by simpa using h))
    have h2 : 0 < (clampRect s.st.width s.st.height r).h.toNat := by
      rw [Nat.pos_iff_ne_zero]; intro h; exact qh (BitVec.eq_of_toNat_eq (by simpa using h))
    rw [decide_eq_true (Nat.mul_pos h1 h2)]
  · exact rangeOk_clamp _ _ _ (by omega) hw qw
  · exact rangeOk_clamp _ _ _ (by omega) hh qh

/-- FILL_RECT with an empty clamped size: a silent no-op (R166). -/
theorem fillRectBody_empty (r : Rect) (c : U16) (s : State) (hd : s.st.dcsN = true)
    (hq : (clampRect s.st.width s.st.height r).w = 0 ∨ (clampRect s.st.width s.st.height r).h = 0) :
    fillRectBody r c s = .go s := by
  rw [fillRectBody, requireNoBracket, if_pos hd]
  simp only [hq, if_true]

/-- FILL_SCREEN with no bracket open (R167). -/
theorem fillScreenBody_go (c : U16) (s : State) (hd : s.st.dcsN = true) (hw : 0 < s.st.width.toNat)
    (hh : 0 < s.st.height.toNat) :
    fillScreenBody c s = .go (s.after
      (batchEvents { x := 0, y := 0, w := s.st.width, h := s.st.height }
        (List.replicate (s.st.width.toNat * s.st.height.toNat) c))
      { s.st.afterWord true with dcsN := true, inBatch := false }
      (s.ctl.receive (batchWords { x := 0, y := 0, w := s.st.width, h := s.st.height }
        (List.replicate (s.st.width.toNat * s.st.height.toNat) c)))) := by
  have hr : ∀ n : U16, 0 < n.toNat → rangeOk 0 n = true := by
    intro n hn
    simp only [rangeOk, Bool.and_eq_true, bne_iff_ne, ne_eq, decide_eq_true_eq]
    refine ⟨fun h => by simp [h] at hn, ?_⟩
    have := n.isLt
    simp; omega
  rw [fillScreenBody, requireNoBracket, if_pos hd, solidBatch_go _ _ _ _ hd (hr _ hw) (hr _ hh),
    decide_eq_true (Nat.mul_pos hw hh)]

/-- SET_ORIENTATION of a legal value (R168). -/
theorem applyOrientation_go (o : Orientation) (s : State) :
    applyOrientation o s = .go (s.after (orientationEvents o)
      { s.st.afterWord true with
        dcsN := true, width := orientWidth o.byte, height := orientHeight o.byte, orient := o }
      (s.ctl.receive (orientationWords o))) := by
  rw [applyOrientation, bracketed_go, Flow.andThen_go, setArea_go, Flow.map_go]
  simp only [orientationWords, Ctl.receive_append]
  rfl

@[simp] theorem Orientation.ofByte_byte (o : Orientation) : Orientation.ofByte o.byte = some o := by
  cases o <;> rfl

theorem setOrientationBody_go (o : Orientation) (s : State) (hd : s.st.dcsN = true) :
    setOrientationBody o.byte s = .go (s.after (orientationEvents o)
      { s.st.afterWord true with
        dcsN := true, width := orientWidth o.byte, height := orientHeight o.byte, orient := o }
      (s.ctl.receive (orientationWords o))) := by
  rw [setOrientationBody, requireNoBracket, if_pos hd, Orientation.ofByte_byte]
  exact applyOrientation_go o s

/-- The chip-select is released and the logical screen is not empty: what every composite sequence needs. -/
abbrev State.Drawable (s : State) : Prop := s.st.dcsN = true ∧ 0 < s.st.width.toNat ∧ 0 < s.st.height.toNat

/-- FILL_RECT from a drawable state, empty or not (R166). -/
theorem fillRectBody_filled (r : Rect) (c : U16) (s : State) (h : s.Drawable) :
    fillRectBody r c s = .go (s.filledRect r c) := by
  obtain ⟨hd, hw, hh⟩ := h
  unfold State.filledRect
  dsimp only
  split
  · exact fillRectBody_empty r c s hd ‹_›
  · rename_i hq
    rw [not_or] at hq
    exact fillRectBody_go r c s hd hw hh hq.1 hq.2

/-- FILL_SCREEN from a drawable state (R167). -/
theorem fillScreenBody_filled (c : U16) (s : State) (h : s.Drawable) :
    fillScreenBody c s = .go (s.filledScreen c) := fillScreenBody_go c s h.1 h.2.1 h.2.2

end Sys2Proof.Machine
end

