-- ==== Sys2Proof/Laws/Touch.lean ====
section
/-! SUPPORT. What a touch sample can do, said once: its values are those of the answers at fixed exchange numbers, its
state is `State.sampled`. -/

namespace Sys2Proof.Machine

/-- The touch exchanges that send `os`, in order. -/
def exchanges : List Byte → State → State
  | [], s => s
  | o :: os, s => exchanges os (touchXfer o s)

theorem adcAnswer_listening (s : State) (h : s.st.tcsN = false) : adcAnswer s = adcByte s 0 := by
  unfold adcAnswer adcByte
  cases s.adc <;> simp [h]

theorem touchXfer_listening (o : Byte) (s : State) (h : s.st.tcsN = false) :
    touchXfer o s = { s with
      wireRev := .x8 o (adcByte s 0) :: s.wireRev, adc := s.adc.drop 1, draws := s.draws + 1 } := by
  simp [touchXfer, exchanged, State.emit, h, adcAnswer_listening]

/-- After one exchange the answers are those one later. -/
theorem adcByte_shift (s t : State) (n k : Nat) (ha : t.adc = s.adc.drop n) (hd : t.draws = s.draws + n) :
    adcByte t k = adcByte s (n + k) := by
  simp [adcByte, ha, hd, List.getElem?_drop, Nat.add_assoc]

theorem touchEvents_shift (s t : State) (n : Nat) (os : List Byte) (k : Nat) (ha : t.adc = s.adc.drop n)
    (hd : t.draws = s.draws + n) : touchEvents t os k = touchEvents s os (n + k) := by
  induction os generalizing k with
  | nil => rfl
  | cons o os ih => simp [touchEvents, ih, adcByte_shift s t n k ha hd, Nat.add_assoc]

/-- What a run of exchanges leaves, while the ADC listens. -/
theorem exchanges_listening (os : List Byte) (s : State) (h : s.st.tcsN = false) :
    exchanges os s = { s with
      wireRev := (touchEvents s os 0).reverse ++ s.wireRev
      adc := s.adc.drop os.length, draws := s.draws + os.length } := by
  induction os generalizing s with
  | nil => simp [exchanges, touchEvents]
  | cons o os ih =>
    rw [exchanges, ih _ (by simpa [touchXfer] using h), touchXfer_listening o s h]
    rw [touchEvents_shift s _ 1 os 0 rfl rfl]
    simp [touchEvents, Nat.add_assoc, Nat.add_comm 1]

theorem exchanges_append (os ps : List Byte) (s : State) : exchanges (os ++ ps) s = exchanges ps (exchanges os s) := by
  induction os generalizing s with
  | nil => rfl
  | cons o os ih => exact ih _

@[simp] theorem exchanges_st (os : List Byte) (s : State) : (exchanges os s).st = s.st := by
  induction os generalizing s with
  | nil => rfl
  | cons o os ih => rw [exchanges, ih]; rfl

@[simp] theorem exchanges_params (os : List Byte) (s : State) : (exchanges os s).params = s.params := by
  induction os generalizing s with
  | nil => rfl
  | cons o os ih => rw [exchanges, ih]; rfl

/-- The answer after a run of exchanges is the answer with that number. -/
theorem adcAnswer_exchanges (os : List Byte) (s : State) (h : s.st.tcsN = false) :
    adcAnswer (exchanges os s) = adcByte s os.length := by
  rw [adcAnswer_listening _ (by simpa using h)]
  exact adcByte_shift s _ os.length 0 (by rw [exchanges_listening os s h]) (by rw [exchanges_listening os s h])

/-- An 8-bit conversion: two exchanges, the value the second answer (R202). -/
theorem sample8_eq (cmd : Byte) (s : State) (h : s.st.tcsN = false) :
    sample8 cmd s = (adcByte s 1, exchanges [cmd, s.params.touchFill] s) := by
  have := adcAnswer_exchanges [cmd] s h
  simp only [exchanges, List.length_cons, List.length_nil, Nat.zero_add] at this
  simp [sample8, exchanges, this]

/-- An axis: six exchanges, the values the second, fifth and sixth answers (R205). -/
theorem sampleAxis_eq (cmd : Byte) (s : State) (h : s.st.tcsN = false) :
    sampleAxis cmd s = (axisAt s 0, exchanges (axisBytes cmd s.params.touchFill) s) := by
  have h1 := adcAnswer_exchanges [cmd] s h
  have h4 := adcAnswer_exchanges [cmd, s.params.touchFill, s.params.touchFill, cmd] s h
  have h5 := adcAnswer_exchanges [cmd, s.params.touchFill, s.params.touchFill, cmd, s.params.touchFill] s h
  simp only [exchanges, List.length_cons, List.length_nil, Nat.zero_add] at h1 h4 h5
  simp [sampleAxis, exchanges, axisBytes, axisAt, h1, h4, h5]

/-- Set-up, exchanges and teardown together (R201, R208). -/
theorem teardown_exchanges (os : List Byte) (s : State) :
    touchTeardown (exchanges os (touchSetup s)) = s.sampled os := by
  have hs : touchEvents (touchSetup s) os 0 = touchEvents s os 0 := by
    have := touchEvents_shift s (touchSetup s) 0 os 0 (by simp [touchSetup]) (by simp [touchSetup])
    simpa using this
  rw [exchanges_listening os _ (by simp [touchSetup]), hs]
  simp [touchTeardown, touchSetup, State.sampled, touchRecord, State.writeTcs, State.writeDiv, State.emit]

/-- Everything a raw sample can do with the display chip-select deasserted (R200 to R209). -/
theorem rawSample_eq (s : State) (hd : s.st.dcsN = true) :
    rawSample s =
      if pressed (pressureAt s) then
        if axisAt s 4 = 0 then .noTouch (s.sampled (zBytes s.params.touchFill ++ axisBytes 0xD0 s.params.touchFill))
        else if axisAt s 10 = 0 then
          .noTouch (s.sampled (zBytes s.params.touchFill ++ axisBytes 0xD0 s.params.touchFill
            ++ axisBytes 0x90 s.params.touchFill))
        else .touch (pressureAt s) (axisAt s 4) (axisAt s 10)
          (s.sampled (zBytes s.params.touchFill ++ axisBytes 0xD0 s.params.touchFill
            ++ axisBytes 0x90 s.params.touchFill))
      else .noTouch (s.sampled (zBytes s.params.touchFill)) := by
  have hl : (touchSetup s).st.tcsN = false := by simp [touchSetup]
  have hp : (touchSetup s).params = s.params := by simp [touchSetup]
  have hb : ∀ k, adcByte (touchSetup s) k = adcByte s k := fun k => by
    have := adcByte_shift s (touchSetup s) 0 k (by simp [touchSetup]) (by simp [touchSetup])
    simpa using this
  have sh : ∀ os k, adcByte (exchanges os (touchSetup s)) k = adcByte s (os.length + k) := fun os k => by
    rw [adcByte_shift (touchSetup s) _ os.length k (by rw [exchanges_listening _ _ hl])
      (by rw [exchanges_listening _ _ hl]), hb]
  have z1 : touchByteZ1 = 0xB8 := by decide
  have z2 : touchByteZ2 = 0xC8 := by decide
  have bx : touchByteX = 0xD0 := by decide
  have byy : touchByteY = 0x90 := by decide
  generalize hf : s.params.touchFill = fill
  have e2 : exchanges [0xC8, fill] (exchanges [0xB8, fill] (touchSetup s)) = exchanges (zBytes fill) (touchSetup s) := rfl
  rw [rawSample, if_pos hd]
  simp only [sample8_eq _ _ hl, hp, hf, z1, z2]
  rw [sample8_eq _ _ (by simpa using hl)]
  simp only [exchanges_params, hp, hf, e2, hb, sh, List.length_cons, List.length_nil]
  have hpr : pressure (adcByte s 1) (adcByte s (0 + 1 + 1 + 1)) = pressureAt s := rfl
  rw [hpr]
  split
  · rw [sampleX, sampleAxis_eq _ _ (by simpa using hl)]
    simp only [exchanges_params, hp, hf, bx, ← exchanges_append]
    have hx : axisAt (exchanges (zBytes fill) (touchSetup s)) 0 = axisAt s 4 := by
      simp only [axisAt, sh]; rfl
    rw [hx]
    split
    · rw [teardown_exchanges]
    · rw [sampleY, sampleAxis_eq _ _ (by simpa using hl)]
      simp only [exchanges_params, hp, hf, byy, ← exchanges_append]
      have hy : axisAt (exchanges (zBytes fill ++ axisBytes 208 fill) (touchSetup s)) 0 = axisAt s 10 := by
        simp only [axisAt, sh]; rfl
      rw [hy]
      split <;> rw [teardown_exchanges]
  · rw [teardown_exchanges]

/-- A raw sample with the display chip-select asserted (R201). -/
theorem rawSample_conflict (s : State) (hd : s.st.dcsN = false) : rawSample s = .conflict (s.raise .busConflict) := by
  simp [rawSample, hd]

@[simp] theorem State.sampled_st (os : List Byte) (s : State) :
    (s.sampled os).st = { s.st with tcsN := true, div := s.st.dispDiv } := rfl
@[simp] theorem State.sampled_ctl (os : List Byte) (s : State) : (s.sampled os).ctl = s.ctl := rfl
@[simp] theorem State.sampled_rom (os : List Byte) (s : State) : (s.sampled os).rom = s.rom := rfl
@[simp] theorem State.sampled_params (os : List Byte) (s : State) : (s.sampled os).params = s.params := rfl
@[simp] theorem State.sampled_activity (os : List Byte) (s : State) : (s.sampled os).activity = s.activity := rfl
@[simp] theorem State.sampled_issue (os : List Byte) (s : State) : (s.sampled os).issue = s.issue := rfl
@[simp] theorem State.sampled_result (os : List Byte) (s : State) : (s.sampled os).result = s.result := rfl

end Sys2Proof.Machine
end

