-- ==== Sys2Proof/Laws/Calibrate.lean ====
section
/-! SUPPORT. What the parts of a calibration can do, said once. -/

namespace Sys2Proof.Machine

/-- SET_ORIENTATION of a legal value with no bracket open (R168). -/
theorem setOrientationBody_oriented (o : Orientation) (s : State) (hd : s.st.dcsN = true) :
    setOrientationBody o.byte s = .go (s.oriented o) := setOrientationBody_go o s hd

/-- The block fields a filling sequence leaves: only the latches, the engine, the chip-select and the batch flag. -/
theorem State.filledRect_st (r : Rect) (c : U16) (s : State) :
    (s.filledRect r c).st = s.st ∨
    (s.filledRect r c).st = { s.st.afterWord true with dcsN := true, inBatch := false } := by
  unfold State.filledRect
  dsimp only
  split
  · exact .inl rfl
  · exact .inr rfl

theorem State.filledScreen_st (c : U16) (s : State) :
    (s.filledScreen c).st = { s.st.afterWord true with dcsN := true, inBatch := false } := rfl

theorem State.oriented_st (o : Orientation) (s : State) :
    (s.oriented o).st = { s.st.afterWord true with
      dcsN := true, width := orientWidth o.byte, height := orientHeight o.byte, orient := o } := rfl

theorem State.Drawable.filledRect {s : State} (h : s.Drawable) (r : Rect) (c : U16) : (s.filledRect r c).Drawable := by
  unfold State.Drawable
  rcases State.filledRect_st r c s with e | e <;> rw [e]
  · exact h
  · exact ⟨rfl, h.2⟩

theorem State.Drawable.filledScreen {s : State} (h : s.Drawable) (c : U16) : (s.filledScreen c).Drawable := ⟨rfl, h.2⟩

theorem State.drawable_oriented (o : Orientation) (s : State) : (s.oriented o).Drawable := by
  have hw : ∀ o : Orientation, 0 < (orientWidth o.byte).toNat ∧ 0 < (orientHeight o.byte).toNat := by
    intro o; cases o <;> decide
  exact ⟨rfl, hw o⟩

theorem fillAll_go (l : List (Rect × U16)) (s : State) (h : s.Drawable) :
    fillAll l s = .go (l.foldl (fun t q => t.filledRect q.1 q.2) s) ∧
      (l.foldl (fun t q => t.filledRect q.1 q.2) s).Drawable := by
  induction l generalizing s with
  | nil => exact ⟨rfl, h⟩
  | cons q l ih =>
    rw [fillAll, fillRectBody_filled _ _ _ h, Flow.andThen_go]
    exact ih _ (h.filledRect _ _)

/-- CROSSHAIR from a drawable state (R233). -/
theorem crosshair_go (p : RawPoint) (fg bg : U16) (s : State) (h : s.Drawable) :
    crosshair p fg bg s = .go (s.crosshaired p fg bg) := (fillAll_go _ _ h).1

theorem State.Drawable.crosshaired {s : State} (h : s.Drawable) (p : RawPoint) (fg bg : U16) :
    (s.crosshaired p fg bg).Drawable := (fillAll_go _ _ h).2

/-- TOUCH_CALIBRATE up to its first poll (R231). -/
theorem calibrateBody_go (fg bg : U16) (s : State) (hd : s.st.dcsN = true) :
    calibrateBody fg bg s = .go (s.calEntered fg bg) := by
  rw [calibrateBody, requireNoBracket, if_pos hd, setOrientationBody_oriented _ _ (by exact hd), Flow.map_go,
    Flow.andThen_go]
  have h : ((s.onSt (fun b => { b with calSaved := b.orient })).oriented .deg0).Drawable := State.drawable_oriented _ _
  have hc := crosshair_go (refPoint 0) fg bg
    (((s.onSt (fun b => { b with calSaved := b.orient })).oriented .deg0).onSt (fun b => { b with calI := 0 })) h
  exact congrArg (fun f : Flow => f.map (fun t => { t with activity := .polling fg bg, result := none })) hc

/-- The end of a calibration (R240, R241). -/
theorem finishCal_go (s : State) (hd : s.st.dcsN = true) :
    finishCal s = .go (
      if (computeCal s.params.calArith s.st.calT).cdiv = 0 then s.calRestored .calFailed
      else commitCal (computeCal s.params.calArith s.st.calT) (s.calRestored .ok)) := by
  rw [finishCal]
  dsimp only
  rw [setOrientationBody_oriented _ _ (by exact hd), Flow.map_go]
  split <;> rfl

/-- A valid poll of the first or second point (R231). -/
theorem acceptPoint_next (fg bg tx ty : U16) (s : State) (h : s.Drawable) (hi : s.st.calI < 2) :
    acceptPoint fg bg s.st.calI tx ty s = .go (s.nextTarget fg bg tx ty) := by
  have h1 : State.Drawable { s with st := { s.st with calT := s.st.calT.set s.st.calI { x := tx, y := ty } } } := h
  rw [acceptPoint, acknowledge, fillRectBody_filled _ _ _ h1, Flow.andThen_go,
    fillScreenBody_filled _ _ (h1.filledRect _ _), Flow.andThen_go, if_pos hi]
  exact crosshair_go _ _ _ _ ⟨rfl, ((h1.filledRect _ _).filledScreen bg).2⟩

/-- A valid poll of the third point ends the calibration (R231). -/
theorem acceptPoint_last (fg bg tx ty : U16) (s : State) (h : s.Drawable) (hi : s.st.calI = 2) :
    acceptPoint fg bg s.st.calI tx ty s = finishCal (s.accepted fg bg tx ty) := by
  have h1 : State.Drawable { s with st := { s.st with calT := s.st.calT.set s.st.calI { x := tx, y := ty } } } := h
  rw [acceptPoint, acknowledge, fillRectBody_filled _ _ _ h1, Flow.andThen_go,
    fillScreenBody_filled _ _ (h1.filledRect _ _), Flow.andThen_go, if_neg (by omega)]
  rfl

theorem State.accepted_st (fg bg tx ty : U16) (s : State) :
    (s.accepted fg bg tx ty).st = { s.st.afterWord true with
      dcsN := true, inBatch := false, calT := s.st.calT.set s.st.calI { x := tx, y := ty } } := by
  rw [State.accepted, State.filledScreen_st]
  rcases State.filledRect_st (Config.ackRect (refPoint s.st.calI).x (refPoint s.st.calI).y) (Config.ackColour fg bg)
    (s.onSt (fun b => { b with calT := b.calT.set b.calI { x := tx, y := ty } })) with e | e <;> rw [e] <;> rfl

end Sys2Proof.Machine
end

