-- ==== Sys2Proof/Laws/Memory.lean ====
section
/-! SUPPORT. The stores: reading after writing, and the canonical form kept by every operation. -/

namespace Sys2Proof.Machine

theorem Store.read_write_same {α : Type} (m : List (Nat × α)) (k : Nat) (v : α) :
    Store.read (Store.write m k v) k = some v := by
  induction m with
  | nil => simp [Store.write, Store.read]
  | cons c m ih =>
    obtain ⟨a, w⟩ := c
    simp only [Store.write]
    split
    · simp [Store.read]
    · split
      · simp [Store.read]
      · simp only [Store.read]
        rw [if_neg (by omega), ih]

/-- A key below every key of a canonical store holds nothing. -/
theorem Store.read_below {α : Type} {m : List (Nat × α)} {a k : Nat} {w : α}
    (h : Store.wf ((a, w) :: m) = true) (hk : k < a) : Store.read ((a, w) :: m) k = none := by
  induction m generalizing a w with
  | nil => simp [Store.read]; omega
  | cons c m ih =>
    obtain ⟨b, u⟩ := c
    simp only [Store.wf, Bool.and_eq_true, decide_eq_true_eq] at h
    rw [Store.read, if_neg (by omega)]
    exact ih h.2 (by omega)

theorem Store.read_write_other {α : Type} (m : List (Nat × α)) {j k : Nat} (v : α) (h : j ≠ k) :
    Store.read (Store.write m k v) j = Store.read m j := by
  induction m with
  | nil => simp [Store.write, Store.read]; omega
  | cons c m ih =>
    obtain ⟨a, w⟩ := c
    simp only [Store.write]
    split
    · simp [Store.read, Ne.symm h]
    · split
      · subst_vars
        simp [Store.read, Ne.symm h]
      · simp only [Store.read]
        rw [ih]

/-- The first key after a write is the smaller of the written key and the old first key. -/
theorem Store.write_head {α : Type} (m : List (Nat × α)) (k : Nat) (v : α) :
    ∃ u rest, Store.write m k v = (match m with | [] => k | (a, _) :: _ => min k a, u) :: rest := by
  cases m with
  | nil => exact ⟨v, [], rfl⟩
  | cons c m =>
    obtain ⟨a, w⟩ := c
    simp only [Store.write]
    split
    · exact ⟨v, (a, w) :: m, by simp; omega⟩
    · split
      · exact ⟨v, m, by simp; omega⟩
      · exact ⟨w, Store.write m k v, by simp; omega⟩

theorem Store.wf_tail {α : Type} {c : Nat × α} {m : List (Nat × α)} (h : Store.wf (c :: m) = true) :
    Store.wf m = true := by
  cases m with
  | nil => rfl
  | cons d m => simp only [Store.wf, Bool.and_eq_true] at h; exact h.2

/-- Writing keeps the canonical form. -/
theorem Store.wf_write {α : Type} (m : List (Nat × α)) (k : Nat) (v : α) (h : Store.wf m = true) :
    Store.wf (Store.write m k v) = true := by
  induction m with
  | nil => rfl
  | cons c m ih =>
    obtain ⟨a, w⟩ := c
    simp only [Store.write]
    split
    · simp only [Store.wf, Bool.and_eq_true, decide_eq_true_eq]
      exact ⟨by omega, h⟩
    · split
      · subst_vars
        cases m with
        | nil => rfl
        | cons d m => exact h
      · have iw := ih (Store.wf_tail h)
        obtain ⟨u, rest, e⟩ := Store.write_head m k v
        rw [e] at iw ⊢
        simp only [Store.wf, Bool.and_eq_true, decide_eq_true_eq]
        refine ⟨?_, iw⟩
        cases m with
        | nil => simp only; omega
        | cons d m =>
          simp only [Store.wf, Bool.and_eq_true, decide_eq_true_eq] at h
          simp only; omega

theorem Memory.wf_write (m : Memory) (a : Nat) (b : Byte) (h : Memory.wf m = true) :
    Memory.wf (Memory.write m a b) = true := Store.wf_write m a b h

theorem Memory.wf_writeList (bs : List Byte) (m : Memory) (a : Nat) (h : Memory.wf m = true) :
    Memory.wf (Memory.writeList m a bs) = true := by
  induction bs generalizing m a with
  | nil => exact h
  | cons b bs ih => exact ih _ _ (Memory.wf_write m a b h)

theorem Memory.read_write_same (m : Memory) (a : Nat) (b : Byte) : Memory.read (Memory.write m a b) a = some b :=
  Store.read_write_same m a b

theorem Memory.read_write_other (m : Memory) {j a : Nat} (b : Byte) (h : j ≠ a) :
    Memory.read (Memory.write m a b) j = Memory.read m j := Store.read_write_other m b h

theorem Gram.wf_write (g : Gram) (k : Nat) (p : U16) (h : Gram.wf g = true) : Gram.wf (Gram.write g k p) = true :=
  Store.wf_write g k p h

theorem Gram.read_write_same (g : Gram) (k : Nat) (p : U16) : Gram.read (Gram.write g k p) k = some p :=
  Store.read_write_same g k p

theorem Gram.read_write_other (g : Gram) {j k : Nat} (p : U16) (h : j ≠ k) :
    Gram.read (Gram.write g k p) j = Gram.read g j := Store.read_write_other g p h

@[simp] theorem Gram.wf_havoc : Gram.wf Gram.havoc = true := rfl

@[simp] theorem Gram.read_havoc (k : Nat) : Gram.read Gram.havoc k = none := rfl

end Sys2Proof.Machine
end

