-- ==== Sys2Proof/Laws/Controller.lean ====
section
/-! SUPPORT. What the controller can do with a word, said once: the fields each part writes, and that every word keeps
`Ctl.Ok`. -/

namespace Sys2Proof.Machine

section Fields

variable (c : Ctl)

@[simp] theorem Ctl.gramWrite_cmd (p : U16) : (c.gramWrite p).cmd = c.cmd := by unfold Ctl.gramWrite; split <;> rfl
@[simp] theorem Ctl.gramWrite_pcount (p : U16) : (c.gramWrite p).pcount = c.pcount := by
  unfold Ctl.gramWrite; split <;> rfl
@[simp] theorem Ctl.gramWrite_pbuf (p : U16) : (c.gramWrite p).pbuf = c.pbuf := by
  unfold Ctl.gramWrite; split <;> rfl
@[simp] theorem Ctl.gramWrite_xs (p : U16) : (c.gramWrite p).xs = c.xs := by unfold Ctl.gramWrite; split <;> rfl
@[simp] theorem Ctl.gramWrite_xe (p : U16) : (c.gramWrite p).xe = c.xe := by unfold Ctl.gramWrite; split <;> rfl
@[simp] theorem Ctl.gramWrite_ys (p : U16) : (c.gramWrite p).ys = c.ys := by unfold Ctl.gramWrite; split <;> rfl
@[simp] theorem Ctl.gramWrite_ye (p : U16) : (c.gramWrite p).ye = c.ye := by unfold Ctl.gramWrite; split <;> rfl
@[simp] theorem Ctl.gramWrite_cx (p : U16) : (c.gramWrite p).cx = c.cx := by unfold Ctl.gramWrite; split <;> rfl
@[simp] theorem Ctl.gramWrite_cy (p : U16) : (c.gramWrite p).cy = c.cy := by unfold Ctl.gramWrite; split <;> rfl
@[simp] theorem Ctl.gramWrite_madctl (p : U16) : (c.gramWrite p).madctl = c.madctl := by
  unfold Ctl.gramWrite; split <;> rfl

@[simp] theorem Ctl.advance_cmd : c.advance.cmd = c.cmd := by unfold Ctl.advance; split <;> [split; skip] <;> rfl
@[simp] theorem Ctl.advance_pcount : c.advance.pcount = c.pcount := by
  unfold Ctl.advance; split <;> [split; skip] <;> rfl
@[simp] theorem Ctl.advance_pbuf : c.advance.pbuf = c.pbuf := by
  unfold Ctl.advance; split <;> [split; skip] <;> rfl
@[simp] theorem Ctl.advance_xs : c.advance.xs = c.xs := by unfold Ctl.advance; split <;> [split; skip] <;> rfl
@[simp] theorem Ctl.advance_xe : c.advance.xe = c.xe := by unfold Ctl.advance; split <;> [split; skip] <;> rfl
@[simp] theorem Ctl.advance_ys : c.advance.ys = c.ys := by unfold Ctl.advance; split <;> [split; skip] <;> rfl
@[simp] theorem Ctl.advance_ye : c.advance.ye = c.ye := by unfold Ctl.advance; split <;> [split; skip] <;> rfl
@[simp] theorem Ctl.advance_madctl : c.advance.madctl = c.madctl := by
  unfold Ctl.advance; split <;> [split; skip] <;> rfl
@[simp] theorem Ctl.advance_gram : c.advance.gram = c.gram := by
  unfold Ctl.advance; split <;> [split; skip] <;> rfl

end Fields

/-! ### Data words, by the command in force -/

theorem Ctl.dataWord_column {c : Ctl} (b : Byte) (h : c.cmd = some 0x2A) : c.dataWord b = c.columnData b := by
  simp [Ctl.dataWord, h]

theorem Ctl.dataWord_page {c : Ctl} (b : Byte) (h : c.cmd = some 0x2B) : c.dataWord b = c.pageData b := by
  simp [Ctl.dataWord, h]

theorem Ctl.dataWord_write {c : Ctl} (b : Byte) (h : c.cmd = some 0x2C) : c.dataWord b = c.pixelData b := by
  simp [Ctl.dataWord, h]

theorem Ctl.dataWord_madctl {c : Ctl} (b : Byte) (h : c.cmd = some 0x36) : c.dataWord b = c.madctlData b := by
  simp [Ctl.dataWord, h]

theorem Ctl.dataWord_pixfmt {c : Ctl} (b : Byte) (h : c.cmd = some 0x3A) : c.dataWord b = c.pixfmtData b := by
  simp [Ctl.dataWord, h]

/-- The second byte of a pixel (R76). -/
theorem Ctl.pixelData_second {c : Ctl} {h : Byte} (b : Byte) (hh : c.hi = some h) :
    c.pixelData b = { (c.gramWrite (joinBytes h b)).advance with hi := none } := by
  simp [Ctl.pixelData, hh]

/-- The first byte of a pixel (R76). -/
theorem Ctl.pixelData_first {c : Ctl} (b : Byte) (hh : c.hi = none) : c.pixelData b = { c with hi := some b } := by
  simp [Ctl.pixelData, hh]

/-- The cursor's column after the advance, in exact arithmetic (R77). -/
theorem Ctl.advance_cx_toNat (c : Ctl) : c.advance.cx.toNat =
    if c.cx.toNat + 1 > c.xe.toNat then c.xs.toNat else c.cx.toNat + 1 := by
  have := c.xe.isLt
  unfold Ctl.advance
  split
  · split <;> rfl
  · simp [BitVec.toNat_add]; omega

/-- The cursor's row after the advance, in exact arithmetic (R77). -/
theorem Ctl.advance_cy_toNat (c : Ctl) : c.advance.cy.toNat =
    if c.cx.toNat + 1 > c.xe.toNat then (if c.cy.toNat + 1 > c.ye.toNat then c.ys.toNat else c.cy.toNat + 1)
    else c.cy.toNat := by
  have := c.ye.isLt
  unfold Ctl.advance
  split
  · split
    · rfl
    · simp [BitVec.toNat_add]; omega
  · rfl

/-- What a pixel write and the advance leave (R76, R77): only the cursor and the display memory may differ. -/
theorem Ctl.gramWrite_advance_frame (c : Ctl) (p : U16) : (c.gramWrite p).advance =
    { c with cx := c.advance.cx, cy := c.advance.cy, gram := (c.gramWrite p).gram } := by
  unfold Ctl.gramWrite Ctl.advance
  (repeat' split) <;> simp_all

/-- A write keeps an all-keys-below bound. -/
theorem Store.write_below {α : Type} (n : Nat) (m : List (Nat × α)) (k : Nat) (v : α) (hk : k < n)
    (h : ∀ cell ∈ m, cell.1 < n) : ∀ cell ∈ Store.write m k v, cell.1 < n := by
  induction m with
  | nil => simpa [Store.write] using hk
  | cons c m ih =>
    obtain ⟨a, w⟩ := c
    simp only [List.mem_cons, forall_eq_or_imp] at h
    unfold Store.write
    split
    · simp only [List.mem_cons, forall_eq_or_imp]; exact ⟨hk, h.1, h.2⟩
    · split
      · simp only [List.mem_cons, forall_eq_or_imp]; exact ⟨hk, h.2⟩
      · simp only [List.mem_cons, forall_eq_or_imp]; exact ⟨h.1, ih h.2⟩

/-- A physical position is one of the 76 800 of the panel. -/
theorem physCell_lt {m : Byte} {x y k : Nat} (h : physCell m x y = some k) : k < 76800 := by
  unfold physCell at h
  split at h
  · simp only [Option.some.injEq] at h; omega
  · simp at h

theorem Ctl.target_lt {c : Ctl} {k : Nat} (h : c.target = some k) : k < 76800 := by
  unfold Ctl.target at h
  split at h
  · simp at h
  · split at h
    · exact physCell_lt h
    · simp at h

/-- A pixel write keeps the display memory canonical and inside the panel. -/
theorem Ctl.gramWrite_gram_ok (c : Ctl) (p : U16) (h : c.Ok) :
    (c.gramWrite p).gram.wf = true ∧ ∀ cell ∈ (c.gramWrite p).gram, cell.1 < 76800 := by
  unfold Ctl.gramWrite
  split
  · rename_i k hk
    exact ⟨Gram.wf_write _ _ _ h.gramWf, Store.write_below _ _ _ _ (Ctl.target_lt hk) h.gramInside⟩
  · exact ⟨rfl, by simp [Gram.havoc]⟩

/-- The advance keeps the cursor inside a window that is not reversed (R77). -/
theorem Ctl.advance_cursor (c : Ctl) (hw : c.windowForward) (h : c.cursorInside) : c.advance.cursorInside := by
  obtain ⟨h1, h2, h3, h4⟩ := h
  obtain ⟨w1, w2⟩ := hw
  have := c.xe.isLt
  have := c.ye.isLt
  unfold Ctl.advance
  split
  · split
    · exact ⟨le_refl _, w1, le_refl _, w2⟩
    · refine ⟨le_refl _, w1, ?_, ?_⟩ <;> simp [BitVec.toNat_add] <;> omega
  · refine ⟨?_, ?_, h3, h4⟩ <;> simp [BitVec.toNat_add] <;> omega

theorem Ctl.command_ok (c : Ctl) (b : Byte) (h : c.Ok) : (c.command b).Ok := by
  have hg := h.gramWf
  have hi := h.gramInside
  unfold Ctl.command
  split
  · exact ⟨hg, hi, by simp [Ctl.latchCommand], fun _ hw => ⟨le_refl _, hw.1, le_refl _, hw.2⟩⟩
  all_goals first
    | done
    | (refine ⟨hg, hi, ?_, ?_⟩ <;> simp [Ctl.latchCommand]; done)
    | (refine ⟨hg, hi, ?_, ?_⟩ <;> simp_all [Ctl.latchCommand])

theorem Ctl.dataWord_ok (c : Ctl) (b : Byte) (h : c.Ok) : (c.dataWord b).Ok := by
  have hg := h.gramWf
  have hi := h.gramInside
  have hp := h.paramCount
  unfold Ctl.dataWord
  split
  · rename_i hc
    have hp := hp (.inl hc)
    unfold Ctl.columnData
    dsimp only
    split <;> refine ⟨hg, hi, ?_, ?_⟩ <;> simp [Ctl.pushParam, hc, hp]
  · rename_i hc
    have hp := hp (.inr hc)
    unfold Ctl.pageData
    dsimp only
    split <;> refine ⟨hg, hi, ?_, ?_⟩ <;> simp [Ctl.pushParam, hc, hp]
  · rename_i hc
    unfold Ctl.pixelData
    split
    · exact ⟨hg, hi, by simp [hc], h.cursor⟩
    · obtain ⟨g1, g2⟩ := Ctl.gramWrite_gram_ok c (joinBytes ‹_› b) h
      refine ⟨by simpa using g1, by simpa using g2, by simp [hc], fun _ hw => ?_⟩
      exact Ctl.advance_cursor (c.gramWrite _) (by simpa [Ctl.windowForward] using hw)
        (by simpa [Ctl.cursorInside] using h.cursor hc (by simpa [Ctl.windowForward] using hw))
  · rename_i hc
    unfold Ctl.madctlData
    split <;> exact ⟨hg, hi, by simp [Ctl.count, hc], by simp [Ctl.count, hc]⟩
  · rename_i hc
    unfold Ctl.pixfmtData
    split <;> exact ⟨hg, hi, by simp [Ctl.count, hc], by simp [Ctl.count, hc]⟩
  · rename_i h1 h2 h3 h4 h5
    exact ⟨hg, hi, by simp only [Ctl.count]; rintro (h | h); exacts [(h1 h).elim, (h2 h).elim],
      by simp only [Ctl.count]; exact fun h => (h3 h).elim⟩

/-- Every word keeps what holds of the controller. -/
theorem Ctl.word_ok (c : Ctl) (dcx : Bool) (b : Byte) (h : c.Ok) : (c.word dcx b).Ok := by
  unfold Ctl.word
  split
  · exact Ctl.dataWord_ok c b h
  · exact Ctl.command_ok c b h

/-- Every sequence of words keeps what holds of the controller. -/
theorem Ctl.receive_ok (ws : List (Bool × Byte)) (c : Ctl) (h : c.Ok) : (c.receive ws).Ok := by
  induction ws generalizing c with
  | nil => exact h
  | cons w ws ih => exact ih _ (Ctl.word_ok c w.1 w.2 h)

/-- What holds of the controller after a reset pulse (R79). -/
theorem Ctl.afterReset_ok (u : CtlUnknown) : (Ctl.afterReset u).Ok :=
  ⟨rfl, by simp [Ctl.afterReset, Gram.havoc], by simp [Ctl.afterReset], by simp [Ctl.afterReset]⟩

theorem Ctl.powerOn_ok : Ctl.powerOn.Ok :=
  ⟨rfl, by simp [Ctl.powerOn], by simp [Ctl.powerOn], by simp [Ctl.powerOn]⟩

end Sys2Proof.Machine
end

