-- ==== Sys2Proof/Laws/Init.lean ====
section
/-! SUPPORT. What INIT's parts can do, said once. -/

namespace Sys2Proof.Machine

/-- INIT up to its init program (R331 to R333). -/
theorem initBody_go (k : DivCode) (s : State) : initBody k s = .go (s.initEntered k) := by
  rw [initBody, word_go _ _ _ (by rfl), Flow.map_go]
  cases h : s.st.rstN <;>
    simp [enterInitProgram, State.initEntered, State.after, resetPulse, initSerial, initLines, initFields,
      State.writeDcs, State.writeTcs, State.writeRst, State.writeDiv, State.writeOrder, State.emit, initEvents,
      resetPulses, expand, wordExpansion, wordCount, Block.initEntered, Block.afterWord, h]

/-- Reading `n + 1` bytes is reading one and then `n`. -/
theorem Memory.readList_succ {m : Memory} {a n : Nat} {bs : List Byte}
    (h : Memory.readList m a (n + 1) = some bs) :
    ∃ b cs, bs = b :: cs ∧ Memory.read m a = some b ∧ Memory.readList m (a + 1) n = some cs := by
  unfold Memory.readList at h
  split at h
  · simp only [Option.some.injEq] at h
    exact ⟨_, _, h.symm, ‹_›, ‹_›⟩
  · simp at h

theorem Memory.readList_length {m : Memory} {a n : Nat} {bs : List Byte}
    (h : Memory.readList m a n = some bs) : bs.length = n := by
  induction n generalizing a bs with
  | zero => simp [Memory.readList] at h; simp [← h]
  | succ n ih =>
    obtain ⟨b, cs, rfl, -, hc⟩ := Memory.readList_succ h
    simp [ih hc]

theorem latched_with_ip (ws : List (Bool × Byte)) (b : Block) (n : Nat) :
    Block.latched ws { b with ip := n } = { b.latched ws with ip := n } := by
  unfold Block.latched; split <;> rfl

/-- A run whose operand bytes the ROM all has (R140). -/
theorem runBytes_go (dcx : Bool) (n : Nat) (bs : List Byte) (s : State) (hd : s.st.dcsN = false)
    (h : s.rom.readList s.st.ip n = some bs) :
    runBytes dcx n s = .go (s.after (asEvents (bs.map (dcx, ·)))
      { s.st.latched (bs.map (dcx, ·)) with ip := s.st.ip + n } (s.ctl.receive (bs.map (dcx, ·)))) := by
  induction n generalizing s bs with
  | zero => simp only [Memory.readList, Option.some.injEq] at h; subst h; rfl
  | succ n ih =>
    obtain ⟨b, cs, rfl, hb, hc⟩ := Memory.readList_succ h
    simp only [runBytes, readRom, hb]
    rw [word_go _ _ _ (by exact hd), Flow.andThen_go, ih cs _ (by exact hd) (by exact hc)]
    have e : ∀ t : State, ({ t with st := { t.st with ip := t.st.ip + 1 } } : State).after [.w9 dcx b]
        (({ t.st with ip := t.st.ip + 1 } : Block).afterWord dcx) (t.ctl.word dcx b)
        = t.after [.w9 dcx b] { t.st.afterWord dcx with ip := t.st.ip + 1 } (t.ctl.word dcx b) := fun _ => rfl
    simp only [e, State.after_after, State.after_st, State.after_ctl, List.map_cons, Block.latched_cons,
      Ctl.receive_cons, latched_with_ip]
    simp [asEvents, Nat.add_assoc, Nat.add_comm 1]

/-- A run that goes off the end of the ROM after `k` of its operand bytes: those are sent, then the fault (R140). -/
theorem runBytes_stop (dcx : Bool) (k n : Nat) (bs : List Byte) (s : State) (hd : s.st.dcsN = false) (hk : k < n)
    (h : s.rom.readList s.st.ip k = some bs) (he : s.rom.read (s.st.ip + k) = none) :
    runBytes dcx n s = .stop ((s.after (asEvents (bs.map (dcx, ·)))
      { s.st.latched (bs.map (dcx, ·)) with ip := s.st.ip + k }
      (s.ctl.receive (bs.map (dcx, ·)))).raise .badInitProgram) := by
  induction n generalizing s bs k with
  | zero => omega
  | succ n ih =>
    cases k with
    | zero =>
      simp only [Memory.readList, Option.some.injEq] at h; subst h
      simp only [Nat.add_zero] at he
      simp only [runBytes, readRom, he, fail]
      rfl
    | succ k =>
      obtain ⟨b, cs, rfl, hb, hc⟩ := Memory.readList_succ h
      simp only [runBytes, readRom, hb]
      rw [word_go _ _ _ (by exact hd), Flow.andThen_go, ih k cs _ (by exact hd) (by omega) (by exact hc)
        (by rw [← he]; exact congrArg _ (by simp [Block.afterWord]; omega))]
      have e : ∀ t : State, ({ t with st := { t.st with ip := t.st.ip + 1 } } : State).after [.w9 dcx b]
          (({ t.st with ip := t.st.ip + 1 } : Block).afterWord dcx) (t.ctl.word dcx b)
          = t.after [.w9 dcx b] { t.st.afterWord dcx with ip := t.st.ip + 1 } (t.ctl.word dcx b) := fun _ => rfl
      simp only [e, State.after_after, State.after_st, State.after_ctl, List.map_cons, Block.latched_cons,
        Ctl.receive_cons, latched_with_ip]
      simp [asEvents, Nat.add_assoc, Nat.add_comm 1]

/-- INIT after its init program (R333, R334): DISPLAY_ON, the bracket closed, the screen cleared. -/
theorem initTailBody_go (s : State) (hd : s.st.dcsN = false) (hw : 0 < s.st.width.toNat)
    (hh : 0 < s.st.height.toNat) : initTailBody s = .go (s.initLeft) := by
  have h : State.Drawable (s.after [.w9 false 0x29, .ev (.csd true)] { s.st.afterWord false with dcsN := true }
      (s.ctl.word false 0x29)) := ⟨rfl, hw, hh⟩
  have e : (word false 0x29 s).map (State.writeDcs true) = .go (s.after [.w9 false 0x29, .ev (.csd true)]
      { s.st.afterWord false with dcsN := true } (s.ctl.word false 0x29)) := by
    rw [word_go _ _ _ hd, Flow.map_go, State.writeDcs_after, State.after_after]
    rfl
  rw [initTailBody, e, Flow.andThen_go, State.initLeft]
  generalize State.after _ _ _ s = u at h ⊢
  rw [fillScreenBody_filled 0x0000 u h, Flow.map_go]
  generalize State.filledScreen _ u = v
  rfl

end Sys2Proof.Machine
end

