-- ==== Sys2Proof/Laws/Transform.lean ====
section
/-! SUPPORT. What the transform's parts can do, said once: the clamps' range, the cache's writes. -/

namespace Sys2Proof.Machine

/-- CLAMP_S64 answers below the dimension (R270). -/
theorem clampS64_lt (q : Int) (dim : Nat) (h0 : 0 < dim) (h1 : dim ≤ 0xFFFF) : (clampS64 q dim).toNat < dim := by
  unfold clampS64
  split
  · simpa using h0
  · split
    · rw [BitVec.toNat_ofNat, Nat.mod_eq_of_lt (by omega)]; omega
    · rw [BitVec.toNat_ofInt]; omega

/-- CLAMP_U32 answers below the dimension (R269). -/
theorem clampU32_lt (q : BitVec 32) (dim : Nat) (h0 : 0 < dim) (h1 : dim ≤ 0xFFFF) :
    (clampU32 q dim).toNat < dim := by
  unfold clampU32
  dsimp only
  split
  · simpa using h0
  · split
    · rw [BitVec.toNat_ofNat, Nat.mod_eq_of_lt (by omega)]; omega
    · omega

theorem transformX_lt (arith : CalArith) (k : CalWords) (tx ty : U16) :
    (transformX arith k tx ty).toNat < Config.lcdWidth := by
  cases arith
  · exact clampS64_lt _ _ (by decide) (by decide)
  · exact clampU32_lt _ _ (by decide) (by decide)

theorem transformY_lt (arith : CalArith) (k : CalWords) (tx ty : U16) :
    (transformY arith k tx ty).toNat < Config.lcdHeight := by
  cases arith
  · exact clampS64_lt _ _ (by decide) (by decide)
  · exact clampU32_lt _ _ (by decide) (by decide)

/-- Everything the x axis of the cache can do (R263, R264). -/
theorem updateX_cases (tx ty : U16) (s : State) :
    (s.params.cacheMode = .perAxis ∧ tx = s.st.lastTx ∧ updateX tx ty s = s) ∨
    (¬(s.params.cacheMode = .perAxis ∧ tx = s.st.lastTx) ∧
      updateX tx ty s =
        { s with st := { s.st with sxC := transformX s.params.calArith s.st.cal tx ty, lastTx := tx } }) := by
  unfold updateX
  split
  · rename_i h; exact .inl ⟨h.1, h.2, rfl⟩
  · rename_i h; exact .inr ⟨h, rfl⟩

/-- Everything the y axis of the cache can do (R263, R264). -/
theorem updateY_cases (tx ty : U16) (s : State) :
    (s.params.cacheMode = .perAxis ∧ ty = s.st.lastTy ∧ updateY tx ty s = s) ∨
    (¬(s.params.cacheMode = .perAxis ∧ ty = s.st.lastTy) ∧
      updateY tx ty s =
        { s with st := { s.st with syC := transformY s.params.calArith s.st.cal tx ty, lastTy := ty } }) := by
  unfold updateY
  split
  · rename_i h; exact .inl ⟨h.1, h.2, rfl⟩
  · rename_i h; exact .inr ⟨h, rfl⟩

end Sys2Proof.Machine
end

