-- ==== Sys2Proof/Tests/Slice0.lean ====
section
/-! SUPPORT. The model's own tests. Expected values are the spec's: the encoding tables of spec/30_encoding.md and the
vectors V1 to V94 and examples W1 to W6 of spec/95_test_vectors.md, named at each theorem. Then one witness for the
hypotheses of each claim. -/

namespace Sys2Proof.Tests

open Sys2Proof Sys2Proof.Machine

/-! ### Small states -/

/-- The state an answer goes on to; power-on where it does not. -/
def nextOf (a : Answer) : State :=
  match a with
  | .next t => t
  | _ => State.reset

/-- Parameters with known values. -/
def params : Params := { calArith := .s64, cacheMode := .perAxis, div8 := 5, touchFill := 0xAA, spiCpha := false }

/-- S_INIT (R36) with divisor 3. -/
def ready : State :=
  { State.reset with
    params := params
    st := { Block.powerOn with initDone := true, spe := true, mosiLatch := true, sckLatch := true, div := 3, dispDiv := 3 } }

/-- `ready` with a bracket open. -/
def opened : State := ready.onSt (fun b => { b with dcsN := false })

/-- `ready` in a batch. -/
def batch : State := ready.onSt (fun b => { b with dcsN := false, inBatch := true })

/-- `ready` stuck. -/
def stuck : State := ready.onSt (fun b => { b with fault := some .bracket })

/-- `ready` at 90°. -/
def at90 : State := ready.onSt (fun b => { b with orient := .deg90, width := 240, height := 320 })

/-- One host operation issued and run. -/
def host (bs : List Byte) (s : State) : State := nextOf (step { s with issue := [.host bs] })

/-- The record at word level. -/
def seen (s : State) : List WordEvent := collapse s.wire

/-- A command word. -/
def C (b : Byte) : WordEvent := .w9 false b
/-- A data word. -/
def D (b : Byte) : WordEvent := .w9 true b
/-- The display chip-select written. -/
def csd (v : Bool) : WordEvent := .ev (.csd v)

/-- A selected display whose controller has received command `c` and the parameters `bs`. -/
def under (c : Byte) (bs : List Byte) : State :=
  { opened with ctl := { Ctl.powerOn with cmd := some c, pbuf := bs, pcount := bs.length } }

/-- A selected display with the first byte of a pixel received, at the last position of a 2 × 2 window. -/
def atPixel : State :=
  { opened with ctl := { Ctl.powerOn with
    cmd := some 0x2C, hi := some 0xF8, madctl := some 0xE8, xs := 10, xe := 11, ys := 20, ye := 21, cx := 11, cy := 21 } }

/-- A block inside the init program `rom`. -/
def inProgram (rom : List Byte) : State :=
  { opened with rom := Memory.writeList [] 0 rom, activity := .initProgram }

/-- The ADC's answers of V48, every exchange listed: command exchanges answer 0. -/
def answersV48 : List Byte := [0, 0x40, 0, 0x00, 0, 0x80, 0, 0, 0x80, 0xC0, 0, 0x20, 0, 0, 0x20, 0x40]

/-- `ready` before a touch that answers as V48: p = 191, tx = 515, ty = 129. -/
def touched : State := { ready with adc := answersV48 }

/-- `ready` before the answers z1 = 2, z2 = 254 of W5: no touch. -/
def untouched : State := { ready with adc := [0, 2, 0, 254] }

/-- The raw points of V63. -/
def scaled : CalPoints := ⟨⟨100, 100⟩, ⟨900, 500⟩, ⟨500, 900⟩⟩

/-- `s` calibrated by V63. -/
def calibratedBy (t : CalPoints) (s : State) : State :=
  s.onSt (fun b => { b with calibrated := true, cal := computeCal .s64 t })

/-- `s` polling for point `i`. -/
def pollingFor (i : Nat) (s : State) : State := { s.onSt (fun b => { b with calI := i }) with activity := .polling 0xFFFF 0 }

/-! ### Well-formedness refuses -/

theorem test_wellformed_named_command : WellFormed (.cmd 0x2A) = false := by decide
theorem test_wellformed_unnamed_command : WellFormed (.cmd 0xFF) = true := by decide
theorem test_wellformed_reserved_end : WellFormed (.reservedInit 0xFF) = false := by decide
theorem test_wellformed_reserved_data_run : WellFormed (.reservedInit 0x80) = false := by decide
theorem test_wellformed_reserved_cmd_run : WellFormed (.reservedInit 0x7F) = false := by decide
theorem test_wellformed_reserved : WellFormed (.reservedInit 0xC5) = true := by decide

/-! ### Decoding, every constructor, from the words of the tables -/

/-- R90. -/
theorem test_decode_word_forms :
    decode (.wire 0b0_0000_0001) = .ok (.cmd 0x01) ∧ decode (.wire 0b1_0010_1100) = .ok (.data 0x2C) := by decide

/-- R96, first half of its table. -/
theorem test_decode_commands_low :
    decode (.wire 0x000) = .ok .nop ∧ decode (.wire 0x011) = .ok .sleepOut ∧ decode (.wire 0x020) = .ok .invOff ∧
    decode (.wire 0x021) = .ok .invOn ∧ decode (.wire 0x026) = .ok .gamma ∧ decode (.wire 0x028) = .ok .displayOff ∧
    decode (.wire 0x029) = .ok .displayOn ∧ decode (.wire 0x02A) = .ok .column ∧ decode (.wire 0x02B) = .ok .page ∧
    decode (.wire 0x02C) = .ok .write ∧ decode (.wire 0x036) = .ok .memAccessCtrl ∧
    decode (.wire 0x03A) = .ok .pixelFormat ∧ decode (.wire 0x0B0) = .ok .rgbCtrl ∧
    decode (.wire 0x0B1) = .ok .frameCtrl ∧ decode (.wire 0x0B6) = .ok .displayCtrl := by decide

/-- R96, second half of its table. -/
theorem test_decode_commands_high :
    decode (.wire 0x0B7) = .ok .entryMode ∧ decode (.wire 0x0C0) = .ok .powerCtrl1 ∧
    decode (.wire 0x0C1) = .ok .powerCtrl2 ∧ decode (.wire 0x0C5) = .ok .vcomCtrl1 ∧
    decode (.wire 0x0C7) = .ok .vcomCtrl2 ∧ decode (.wire 0x0CB) = .ok .powerCtrlA ∧
    decode (.wire 0x0CF) = .ok .powerCtrlB ∧ decode (.wire 0x0E0) = .ok .posGamma ∧
    decode (.wire 0x0E1) = .ok .negGamma ∧ decode (.wire 0x0E8) = .ok .drvTimingCtrlA ∧
    decode (.wire 0x0EA) = .ok .drvTimingCtrlB ∧ decode (.wire 0x0ED) = .ok .powerOnSeqCtrl ∧
    decode (.wire 0x0F2) = .ok .enable3G ∧ decode (.wire 0x0F7) = .ok .pumpRatioCtrl := by decide

/-- R94. -/
theorem test_decode_init_bytes :
    decode (.rom 0b1111_1111) = .ok .endProgram ∧ decode (.rom 0b1000_0001) = .ok (.dataRun 1) ∧
    decode (.rom 0b0100_0010) = .ok (.cmdRun 2) ∧ decode (.rom 0b0000_0000) = .ok (.reservedInit 0) := by decide

/-- R108. -/
theorem test_decode_touch_bytes :
    decode (.touch 0b1_011_1_0_00) = .ok .touchZ1 ∧ decode (.touch 0b1_100_1_0_00) = .ok .touchZ2 ∧
    decode (.touch 0b1_101_0_0_00) = .ok .touchX ∧ decode (.touch 0b1_001_0_0_00) = .ok .touchY ∧
    decode (.touch 0b1_001_0_0_01) = .error (.touchByteNotSent 0x91) := by decide

/-- R118, identifiers 0x01 to 0x09; the operand bytes are the model's layout (assumption 3). -/
theorem test_decode_host_low :
    decode (.host [0x01, 3]) = .ok (.initBlock 3) ∧ decode (.host [0x02]) = .ok .beginTx ∧
    decode (.host [0x03]) = .ok .endTx ∧ decode (.host [0x04, 0x28]) = .ok (.sendCmd 0x28) ∧
    decode (.host [0x05, 0x55]) = .ok (.sendData 0x55) ∧
    decode (.host [0x06, 0x01, 0x3F]) = .ok (.sendData16 0x013F) ∧
    decode (.host [0x07, 0x49]) = .ok (.setOrientation 0x49) ∧ decode (.host [0x08, 1]) = .ok (.setInverted true) ∧
    decode (.host [0x09, 0, 10, 0, 20, 0, 2, 0, 3]) = .ok (.batchStart 10 20 2 3) := by decide

/-- R118, identifiers 0x0A to 0x12. -/
theorem test_decode_host_high :
    decode (.host [0x0A, 0xF8, 0x00]) = .ok (.batchDraw 0xF800) ∧ decode (.host [0x0B]) = .ok .batchStop ∧
    decode (.host [0x0C, 0, 10, 0, 20, 0xF8, 0]) = .ok (.drawPixel 10 20 0xF800) ∧
    decode (.host [0x0D, 0, 1, 0, 2, 0, 3, 0, 4, 0, 5]) = .ok (.fillRect 1 2 3 4 5) ∧
    decode (.host [0x0E, 0x07, 0xE0]) = .ok (.fillScreen 0x07E0) ∧ decode (.host [0x0F]) = .ok .touchRawRead ∧
    decode (.host [0x10, 0xFF, 0xFF, 0, 0]) = .ok (.touchCalibrate 0xFFFF 0) ∧
    decode (.host [0x11]) = .ok .touchRead ∧ decode (.host [0x12, 50]) = .ok (.setBrightness 50) := by decide

/-- Rejections by name: identifiers of no operation (R118), operands of no legal value, missing operands. -/
theorem test_decode_rejects :
    decode (.host [0x00]) = .error (.unknownOp 0x00) ∧ decode (.host [0x13]) = .error (.unknownOp 0x13) ∧
    decode (.host [0x01, 8]) = .error (.badOperand 0x01) ∧ decode (.host [0x08, 2]) = .error (.badOperand 0x08) ∧
    decode (.host [0x0A, 1]) = .error (.badLength 0x0A) ∧ decode (.host []) = .error .emptyPacket := by decide

/-- The words as the opcode table numbers them, and their placing where the next step runs them. -/
theorem test_table_words :
    decodeTableWord 16 0x12C = some (.data 0x2C) ∧ decodeTableWord 16 0x02A = some .column ∧
    decodeTableWord 8 0xB8 = some .touchZ1 ∧ decodeTableWord 8 0x0C = some (.drawPixel 0 0 0) ∧
    decodeTableWord 8 0x82 = some (.dataRun 2) ∧ decodeTableWord 8 0xFF = some .endProgram := by decide

theorem test_fetch_word_end : (nextOf (step (State.reset.withFetchWord 8 0xFF))).activity = .initTail := by decide
theorem test_fetch_word_host :
    (nextOf (step (State.reset.withFetchWord 8 0x0C))).result = some (.faulted .notInit) := by decide

/-- R113: `SEQ 0x3A: 0x55` is `41 3A 81 55`; R92: RGB(255, 0, 0) = 0xF800. -/
theorem test_assembly : asmSeq 0x3A [0x55] ++ asmEnd = [0x41, 0x3A, 0x81, 0x55, 0xFF] ∧ rgb 255 0 0 = 0xF800 := by decide

/-- R141: the program of P1 is well-formed; V18 and V20 are not. -/
theorem test_init_programs : initProgramOk [0x41, 0x3A, 0x81, 0x55, 0xFF] = true ∧ initProgramOk [0xC5, 0xFF] = false ∧
    initProgramOk [0x41, 0x3A] = false := by decide

/-! ### Framer -/

/-- V1 and V3: a word at pin level. -/
theorem test_word_pins : (nextOf (exec .write opened)).wire.take 5 =
    [.mosi false, .sck false, .spe false, .sck true, .spe true] := by decide
theorem test_word_record : seen (nextOf (exec .write opened)) = [C 0x2C] := by decide

/-- V8: a word with no bracket. -/
theorem test_word_no_bracket : (nextOf (exec .nop ready)).st.fault = some .bracket ∧
    (nextOf (exec .nop ready)).wire = [] := by decide

/-- V4 to V7. -/
theorem test_begin_send_end :
    seen (host [0x03] (host [0x06, 0x01, 0x3F] (host [0x04, 0x28] (host [0x02] ready)))) =
      [csd false, C 0x28, D 0x01, D 0x3F, csd true] := by decide
theorem test_send_data : seen (host [0x05, 0x55] opened) = [D 0x55] := by decide

/-- V9, V10, V11. -/
theorem test_framer_faults :
    (host [0x06, 0x12, 0x34] ready).result = some (.faulted .bracket) ∧ (host [0x06, 0x12, 0x34] ready).wire = [] ∧
    (host [0x02] opened).result = some (.faulted .bracket) ∧
    (host [0x03] ready).result = some (.faulted .bracket) := by decide

/-! ### Init program -/

/-- V12 and V16: one step runs one instruction; the operand 0xFF is data. -/
theorem test_init_run : (runSteps 3 (inProgram [0x41, 0x3A, 0x81, 0xFF, 0xFF]) matches .next _) = true ∧
    seen (nextOf (runSteps 3 (inProgram [0x41, 0x3A, 0x81, 0xFF, 0xFF]))) = [C 0x3A, D 0xFF] ∧
    (nextOf (runSteps 3 (inProgram [0x41, 0x3A, 0x81, 0xFF, 0xFF]))).st.ip = 5 := by decide

/-- V14: runs of no bytes. -/
theorem test_init_empty_runs : (nextOf (runSteps 2 (inProgram [0x40, 0x80, 0xFF]))).st.ip = 2 ∧
    (nextOf (runSteps 2 (inProgram [0x40, 0x80, 0xFF]))).wire = [] := by decide

/-- V18. -/
theorem test_init_reserved : (nextOf (step (inProgram [0xC5, 0xFF]))).result = some (.faulted .badInitProgram) ∧
    (nextOf (step (inProgram [0xC5, 0xFF]))).st.ip = 1 ∧ (nextOf (step (inProgram [0xC5, 0xFF]))).st.dcsN = false := by
  decide

/-- V19: the bytes before the end are sent. -/
theorem test_init_off_end : seen (nextOf (step (inProgram [0x82, 0x11]))) = [D 0x11] ∧
    (nextOf (step (inProgram [0x82, 0x11]))).st.ip = 2 ∧
    (nextOf (step (inProgram [0x82, 0x11]))).st.fault = some .badInitProgram := by decide

/-- P1: INIT's record up to its init program. -/
theorem test_init_entry : seen (host [0x01, 6] State.reset) =
    [csd true, .ev (.cst true), .ev (.rst true), .ev (.div 6), .ev (.order .msbFirst), .ev (.rst false),
     .ev (.wait 50), .ev (.rst true), .ev (.wait 120), csd false, C 0x28] := by decide

/-! ### Display -/

/-- V23. -/
theorem test_set_area : seen (setArea 0 0 239 319 ready).final =
    [csd false, C 0x2A, D 0x00, D 0x00, D 0x00, D 0xEF, csd true,
     csd false, C 0x2B, D 0x00, D 0x00, D 0x01, D 0x3F, csd true] := by decide

/-- W1. -/
theorem test_draw_pixel : seen (host [0x0C, 0, 10, 0, 20, 0xF8, 0x00] ready) =
    [csd false, C 0x2A, D 0x00, D 0x0A, D 0x00, D 0x0A, csd true,
     csd false, C 0x2B, D 0x00, D 0x14, D 0x00, D 0x14, csd true,
     csd false, C 0x2C, D 0xF8, D 0x00, csd true] := by decide +kernel

/-- V25, V26, V28. -/
theorem test_draw_pixel_clipped : (host [0x0C, 0x01, 0x40, 0, 0, 0, 0] ready).wire = [] ∧
    (host [0x0C, 0, 0, 0, 240, 0, 0] ready).wire = [] ∧ (host [0x0C, 0, 240, 0, 0, 0, 0] at90).wire = [] := by decide

/-- W2, V29, V31, V32, V33: the clamp. -/
theorem test_clamp : clampRect 320 240 ⟨310, 230, 100, 100⟩ = ⟨310, 230, 10, 10⟩ ∧
    clampRect 320 240 ⟨400, 300, 5, 5⟩ = ⟨319, 239, 1, 1⟩ ∧
    clampRect 320 240 ⟨0, 0, 0xFFFF, 0xFFFF⟩ = ⟨0, 0, 320, 240⟩ ∧
    clampRect 320 240 ⟨315, 0, 5, 1⟩ = ⟨315, 0, 5, 1⟩ ∧
    clampRect 320 240 ⟨0xFFFF, 0xFFFF, 2, 2⟩ = ⟨319, 239, 1, 1⟩ := by decide

/-- V33 as an operation. -/
theorem test_fill_rect_corner : seen (host [0x0D, 0xFF, 0xFF, 0xFF, 0xFF, 0, 2, 0, 2, 0x00, 0x1F] ready) =
    [csd false, C 0x2A, D 0x01, D 0x3F, D 0x01, D 0x3F, csd true,
     csd false, C 0x2B, D 0x00, D 0xEF, D 0x00, D 0xEF, csd true,
     csd false, C 0x2C, D 0x00, D 0x1F, csd true] := by decide +kernel

/-- V30 and V46. -/
theorem test_fill_rect_empty : (host [0x0D, 0, 0, 0, 0, 0, 0, 0, 10, 0, 0] ready).wire = [] ∧
    (host [0x0D, 0, 0, 0, 0, 0, 0, 0, 10, 0, 0] ready).result = some .ok := by decide
theorem test_fill_screen_bracket : (host [0x0E, 0, 0] opened).result = some (.faulted .bracket) := by decide

/-- V35: a batch of one row. -/
theorem test_batch : seen (nextOf (runAll [.batchStart 10 20 2 1, .batchDraw 1, .batchDraw 2, .batchStop] ready)) =
    [csd false, C 0x2A, D 0x00, D 0x0A, D 0x00, D 0x0B, csd true,
     csd false, C 0x2B, D 0x00, D 0x14, D 0x00, D 0x14, csd true,
     csd false, C 0x2C, D 0x00, D 0x01, D 0x00, D 0x02, csd true] := by decide +kernel

/-- V37, V38, V40. -/
theorem test_batch_faults : (host [0x09, 0, 0, 0, 0, 0, 0, 0, 5] ready).st.fault = some .badOperand ∧
    (host [0x09, 0xFF, 0xFF, 0, 0, 0, 2, 0, 1] ready).st.fault = some .badOperand ∧
    (host [0x0A, 0, 0] ready).st.fault = some .batch := by decide

/-- V42 and V43: orientation and dimensions. -/
theorem test_orientation_record : seen (host [0x07, 0x89] ready) =
    [csd false, C 0x36, D 0x88, csd true, csd false, C 0x2A, D 0x00, D 0x00, D 0x00, D 0xEF, csd true,
     csd false, C 0x2B, D 0x00, D 0x00, D 0x01, D 0x3F, csd true] := by decide +kernel
theorem test_orientation_fields : (host [0x07, 0x89] ready).st.orient = .deg270 ∧
    (host [0x07, 0x89] ready).st.width = 240 ∧ (host [0x07, 0x89] ready).st.height = 320 ∧
    (host [0x07, 0x48] ready).st.fault = some .badOperand := by decide

/-- V45. -/
theorem test_inverted : seen (host [0x08, 0] (host [0x08, 1] ready)) =
    [csd false, C 0x21, csd true, csd false, C 0x20, csd true] ∧
    (host [0x08, 0] (host [0x08, 1] ready)).ctl.inv = some false := by decide

/-- V47. -/
theorem test_brightness : (host [0x12, 100] ready).result = some (.faulted .refused) ∧
    (host [0x12, 100] ready).wire = [] := by decide

/-! ### The controller -/

/-- R75: the fourth parameter sets the window. -/
theorem test_ctl_column : (nextOf (exec (.data 0x3F) (under 0x2A [0x00, 0x0A, 0x01]))).ctl.xs = 10 ∧
    (nextOf (exec (.data 0x3F) (under 0x2A [0x00, 0x0A, 0x01]))).ctl.xe = 319 := by decide
theorem test_ctl_page : (nextOf (exec (.data 0x3F) (under 0x2B [0x00, 0x0A, 0x01]))).ctl.ys = 10 ∧
    (nextOf (exec (.data 0x3F) (under 0x2B [0x00, 0x0A, 0x01]))).ctl.ye = 319 := by decide

/-- R77 and V36: the cursor wraps to the window's start after its last pixel. -/
theorem test_ctl_cursor_wrap : (nextOf (exec (.data 0x00) atPixel)).ctl.cx = 10 ∧
    (nextOf (exec (.data 0x00) atPixel)).ctl.cy = 20 ∧ (nextOf (exec (.data 0x00) atPixel)).ctl.hi = none := by decide

/-- R76: the pixel reaches its physical position. -/
theorem test_ctl_pixel : ∀ k, physCell 0xE8 11 21 = some k →
    (nextOf (exec (.data 0x00) atPixel)).ctl.gram.read k = some 0xF800 := by
  intro k hk
  have h : atPixel.ctl.target = some k := hk
  have e : (nextOf (exec (.data 0x00) atPixel)).ctl.gram = (atPixel.ctl.gramWrite 0xF800).gram := rfl
  rw [e, Ctl.gramWrite, h]
  exact Gram.read_write_same _ _ _

/-- R76: with MADCTL unknown the display memory becomes unknown. -/
theorem test_ctl_havoc : (nextOf (exec (.data 0x00)
    { atPixel with ctl := { atPixel.ctl with madctl := none, gram := [(5, 7)] } })).ctl.gram = [] := by decide

/-! ### Bits (R65) -/

/-- SEND_CMD 0x2C clocks D/CX = 0, then 0010 1100. -/
theorem test_word_bits : (opened.line.clocked (host [0x04, 0x2C] opened).wire).map Prod.fst =
    [false, false, false, true, false, true, true, false, false] := by decide

/-- The first read exchange of V48, 0xAA out and 0x40 in, MSB first. -/
theorem test_exchange_bits : ready.line.clocked [.x8 0xAA 0x40] =
    [(true, some false), (false, some true), (true, some false), (false, some false), (true, some false),
     (false, some false), (true, some false), (false, some false)] := by decide

/-! ### Touch -/

/-- V48: the values and the whole record but for the teardown's place in it. -/
theorem test_raw_read : (host [0x0F] touched).result = some (.raw 191 515 129) := by decide
theorem test_raw_read_record : (host [0x0F] touched).wire =
    [.div 5, .cst false, .x8 0xB8 0, .x8 0xAA 0x40, .x8 0xC8 0, .x8 0xAA 0x00,
     .x8 0xD0 0, .x8 0xAA 0x80, .x8 0xAA 0, .x8 0xD0 0, .x8 0xAA 0x80, .x8 0xAA 0xC0,
     .x8 0x90 0, .x8 0xAA 0x20, .x8 0xAA 0, .x8 0x90 0, .x8 0xAA 0x20, .x8 0xAA 0x40, .cst true, .div 3] := by decide

/-- W5, V51, V53: the pressure. -/
theorem test_pressure : pressure 10 250 = 15 ∧ pressure 2 254 = 3 ∧ pressure 5 255 = 5 ∧ pressed 5 = false ∧
    pressed 6 = true ∧ pressure 0x80 0xFF = 0 ∧ pressure 0xFF 0x00 = 254 := by decide
theorem test_no_touch : (host [0x0F] untouched).wire =
    [.div 5, .cst false, .x8 0xB8 0, .x8 0xAA 2, .x8 0xC8 0, .x8 0xAA 254, .cst true, .div 3] ∧
    (host [0x0F] untouched).result = some .noTouch := by decide

/-- V54 to V57, V59: the axis values and the filter. -/
theorem test_axis : agreed 0x80 0x80 0xC0 = 515 ∧ agreed 0x80 0x81 0xC0 = 0 ∧ agreed 0x00 0x00 0x3F = 0 ∧
    agreed 0x00 0x00 0x40 = 1 ∧ agreed 0xFF 0xFF 0xFF = 1023 := by decide

/-- V60. -/
theorem test_bus_conflict : (host [0x0F] opened).result = some (.faulted .busConflict) ∧
    (host [0x0F] opened).wire = [] := by decide

/-- The touch commands as steps of their own. -/
theorem test_touch_command_values :
    (nextOf (exec .touchZ1 { ready with adc := [1, 0x40], st := { ready.st with tcsN := false } })).result
      = some (.sample 0x40) ∧
    (nextOf (exec .touchX { ready with adc := [0, 0x80, 7, 0, 0x80, 0xC0], st := { ready.st with tcsN := false } })).result
      = some (.sample 515) := by decide

/-! ### Calibration -/

/-- V61 to V64. -/
theorem test_coefficients_s64 : computeCal .s64 scaled = ⟨168000, 0, -7200000, 0, 120000, -2400000, 480000⟩ := by decide
theorem test_coefficients_u32 :
    computeCal .u32 scaled = ⟨0x29040, 0, 0xFF922300, 0, 0x1D4C0, 0xFFDB6100, 0x75300⟩ := by decide

/-- V65 to V70. -/
theorem test_coefficients_mirrored :
    computeCal .s64 ⟨⟨900, 100⟩, ⟨100, 500⟩, ⟨500, 900⟩⟩ =
      ⟨168000, 0, -160800000, 0, -120000, 2400000, -480000⟩ ∧
    computeCal .u32 ⟨⟨900, 100⟩, ⟨100, 500⟩, ⟨500, 900⟩⟩ =
      ⟨0x29040, 0, 0xF66A6300, 0, 0xFFFE2B40, 0x249F00, 0xFFF8AD00⟩ := by decide
theorem test_coefficients_collinear :
    computeCal .s64 ⟨⟨100, 100⟩, ⟨200, 200⟩, ⟨300, 300⟩⟩ = ⟨42000, -42000, 0, 0, 0, 0, 0⟩ ∧
    computeCal .u32 ⟨⟨100, 100⟩, ⟨500, 900⟩, ⟨900, 500⟩⟩ =
      ⟨0, 0xFFFD6FC0, 0x6DDD00, 0xFFFE2B40, 0, 0x249F00, 0xFFF8AD00⟩ := by decide

/-- The table of crosshair squares after V70, for L1. -/
theorem test_crosshair : crosshairSquares (refPoint 1) 1 2 =
    [(⟨290, 110, 20, 20⟩, 1), (⟨291, 111, 18, 18⟩, 2), (⟨296, 116, 8, 8⟩, 1), (⟨297, 117, 6, 6⟩, 2)] := by decide

/-- R231: a calibration from 90° saves it, sets 0° and polls for point 0; its first poll without a touch goes on. -/
theorem test_calibrate_starts :
    (host [0x10, 0xFF, 0xFF, 0, 0] at90).activity = .polling 0xFFFF 0 ∧
    (host [0x10, 0xFF, 0xFF, 0, 0] at90).st.orient = .deg0 ∧
    (host [0x10, 0xFF, 0xFF, 0, 0] at90).st.calSaved = .deg90 := by decide +kernel
theorem test_calibrate_poll : (nextOf (step (pollingFor 1 untouched))).activity = .polling 0xFFFF 0 ∧
    (nextOf (step (pollingFor 1 untouched))).st.calI = 1 := by decide

/-! ### Transform -/

/-- V71, V74, V75. -/
theorem test_transform : transformX .s64 (computeCal .s64 scaled) 512 512 = 164 ∧
    transformY .s64 (computeCal .s64 scaled) 512 512 = 123 ∧ transformX .s64 (computeCal .s64 scaled) 1 1 = 0 ∧
    transformX .s64 (computeCal .s64 scaled) 1023 1023 = 319 ∧
    transformY .s64 (computeCal .s64 scaled) 1023 1023 = 239 := by decide

/-- V76, V77, V80, V81. -/
theorem test_transform_u32 : transformX .u32 (computeCal .u32 scaled) 1 1 = 0 ∧
    transformX .u32 (computeCal .u32 scaled) 512 512 = 164 ∧
    transformX .u32 (computeCal .u32 ⟨⟨900, 100⟩, ⟨100, 500⟩, ⟨500, 900⟩⟩) 512 512 = 0 ∧
    transformX .u32 (computeCal .u32 ⟨⟨20, 20⟩, ⟨300, 120⟩, ⟨160, 220⟩⟩) 512 512 = 319 ∧
    transformY .u32 (computeCal .u32 ⟨⟨20, 20⟩, ⟨300, 120⟩, ⟨160, 220⟩⟩) 512 512 = 0 := by decide

/-- V71 and V74: the remap. -/
theorem test_remap : remap .deg90 240 320 164 123 = (123, 156) ∧ remap .deg180 320 240 164 123 = (156, 117) ∧
    remap .deg270 240 320 164 123 = (117, 164) ∧ remap .deg90 240 320 0 0 = (0, 320) ∧
    remap .deg180 320 240 0 0 = (320, 240) := by decide

/-- V84 and V85: a cache hit keeps sx. -/
theorem test_cache : let s := ready.onSt (fun b => { b with
      cal := ⟨0, -168000, 7200000, -120000, 0, 2400000, -480000⟩, calibrated := true })
    (acceptReading 191 512 512 s).result = some (.point 164 123) ∧
    (acceptReading 191 512 700 (acceptReading 191 512 512 s)).result = some (.point 164 123) ∧
    (acceptReading 191 700 700 (acceptReading 191 512 700 (acceptReading 191 512 512 s))).result
      = some (.point 230 123) := by decide

/-- 44_transform.md R261, with a bracket open. -/
theorem test_uncalibrated : (host [0x11] opened).result = some .noTouch ∧ (host [0x11] opened).wire = [] := by decide

/-! ### Prelude -/

/-- V87, V88, V89, V90, V91, V92. -/
theorem test_prelude : (host [0x0C, 0, 0, 0, 0, 0, 0] State.reset).result = some (.faulted .notInit) ∧
    (host [0x01, 3] (host [0x0C, 0, 0, 0, 0, 0, 0] State.reset)).result = some (.faulted .notInit) ∧
    (host [0x13] State.reset).result = some (.faulted .notInit) ∧ (host [0x13] batch).result = some (.faulted .batch) ∧
    (host [0x01, 3] batch).result = some (.faulted .batch) ∧
    (host [0x00] ready).result = some (.faulted .refused) := by decide

/-- V93. -/
theorem test_init_in_bracket : (host [0x01, 3] opened).activity = .initProgram := by decide

/-! ### Witnesses: for each claim with hypotheses, a state and operands that meet them, clause by clause -/

theorem witness_StepRunsFetchedInstruction :
    (ready.activity = .idle ∧ ({ ready with issue := [.host [0x02]] } : State).issue = .host [0x02] :: [] ∧
      decode (Packet.code (.host [0x02])) = .ok .beginTx) ∧
    (State.reset.activity = .idle ∧ State.reset.issue = []) ∧
    ((inProgram [0xFF]).activity = .initProgram ∧ (inProgram [0xFF]).rom.read (inProgram [0xFF]).st.ip = some 0xFF) ∧
    ((inProgram []).activity = .initProgram ∧ (inProgram []).rom.read (inProgram []).st.ip = none ∧
      (inProgram []).st.fault = none) := by decide

theorem witness_DecodeOfEncode : WellFormed (.cmd 0xFF) = true ∧ WellFormed (.dataRun 63) = true ∧
    WellFormed (.initBlock 7) = true ∧ WellFormed (.fillRect 0xFFFF 0 0xFFFF 0 0xFFFF) = true := by decide

theorem witness_EncodeOfDecode : decode (.wire 0x1FF) = .ok (.data 0xFF) ∧ decode (.rom 0x3F) = .ok (.reservedInit 0x3F) ∧
    decode (.touch 0x90) = .ok .touchY ∧ decode (.host [0x12, 0xFF]) = .ok (.setBrightness 0xFF) := by decide

theorem witness_InitByteDecoding : (0xFF : Byte) = 0xFF ∧ 0x80 ≤ (0xBF : Byte).toNat ∧ (0xBF : Byte).toNat ≤ 0xBF ∧
    0x40 ≤ (0x40 : Byte).toNat ∧ (0x40 : Byte).toNat ≤ 0x7F ∧ (0x3F : Byte).toNat ≤ 0x3F ∧
    0xC0 ≤ (0xFE : Byte).toNat ∧ (0xFE : Byte).toNat ≤ 0xFE := by decide

theorem witness_WireWordSendsItsNineBits : encode .pumpRatioCtrl = .wire (word9 false 0xF7) ∧
    encode (.data 0xFF) = .wire (word9 true 0xFF) ∧ opened.st.fault = none ∧ opened.st.dcsN = false ∧
    ready.st.fault = none ∧ ready.st.dcsN = true := by decide

theorem witness_PreBitHasOneRisingEdge : ready.st.spe = true := by decide

theorem witness_RecordLevelsAgree : (∀ v, WordEvent.ev (.mosi v) ∉ [csd false, C 0x2C, csd true]) ∧
    ready.line.order = .msbFirst ∧ State.reset.line.order = .msbFirst := by decide

theorem witness_StepKeepsFramingLaw : ready.Framed ∧ (∃ t, step { ready with issue := [.host [0x02]] } = .next t) :=
  ⟨⟨rfl, rfl⟩, ⟨_, rfl⟩⟩

theorem witness_CommandWordEffect : encode .write = .wire (word9 false 0x2C) ∧
    encode (.cmd 0xFF) = .wire (word9 false 0xFF) ∧ opened.Selected := by decide

theorem witness_WindowParameterWords :
    ((under 0x2A [0, 10, 1]).Selected ∧ (under 0x2A [0, 10, 1]).ctl.pcount = (under 0x2A [0, 10, 1]).ctl.pbuf.length ∧
      (under 0x2A [0, 10, 1]).ctl.cmd = some 0x2A ∧ (under 0x2A [0, 10, 1]).ctl.pbuf = [0, 10, 1]) ∧
    ((under 0x2B [0, 10, 1]).Selected ∧ (under 0x2B [0, 10, 1]).ctl.pcount = (under 0x2B [0, 10, 1]).ctl.pbuf.length ∧
      (under 0x2B [0, 10, 1]).ctl.cmd = some 0x2B ∧ (under 0x2B [0, 10, 1]).ctl.pbuf = [0, 10, 1]) ∧
    ((under 0x2A [0, 10]).Selected ∧ (under 0x2A [0, 10]).ctl.pcount = (under 0x2A [0, 10]).ctl.pbuf.length ∧
      (under 0x2A [0, 10]).ctl.pcount ≠ 3) ∧
    ((under 0x2B [0, 10, 1, 2]).ctl.pcount = (under 0x2B [0, 10, 1, 2]).ctl.pbuf.length ∧
      (under 0x2B [0, 10, 1, 2]).ctl.pcount ≠ 3) := by decide

theorem witness_PixelDataWords :
    (atPixel.Selected ∧ atPixel.ctl.cmd = some 0x2C ∧ atPixel.ctl.hi = some 0xF8 ∧ atPixel.ctl.madctl = some 0xE8 ∧
      isOrientationMadctl 0xE8 = true ∧ atPixel.ctl.windowOk 0xE8 = true ∧
      atPixel.ctl.cx.toNat < panelWidth 0xE8 ∧ atPixel.ctl.cy.toNat < panelHeight 0xE8) ∧
    ((under 0x2C []).Selected ∧ (under 0x2C []).ctl.cmd = some 0x2C ∧ (under 0x2C []).ctl.hi = none ∧
      ∀ m, (under 0x2C []).ctl.madctl = some m → isOrientationMadctl m = true → (under 0x2C []).ctl.windowOk m = false) := by
  refine ⟨⟨by decide, by decide, by decide, by decide, by decide, by decide, by decide, by decide⟩,
    by decide, by decide, by decide, fun m h => by cases h⟩

theorem witness_OneParameterDataWords :
    ((under 0x36 []).Selected ∧ (under 0x36 []).ctl.cmd = some 0x36 ∧ (under 0x36 []).ctl.pcount = 0) ∧
    ((under 0x3A []).Selected ∧ (under 0x3A []).ctl.cmd = some 0x3A ∧ (under 0x3A []).ctl.pcount = 0) ∧
    ((under 0x36 [1]).Selected ∧ (under 0x36 [1]).ctl.cmd = some 0x36 ∧ (under 0x36 [1]).ctl.pcount ≠ 0) ∧
    (opened.Selected ∧ opened.ctl.cmd ≠ some 0x2A ∧ opened.ctl.cmd ≠ some 0x2B ∧ opened.ctl.cmd ≠ some 0x2C ∧
      opened.ctl.cmd ≠ some 0x36 ∧ opened.ctl.cmd ≠ some 0x3A) := by decide

theorem witness_PreludeChecksInOrder :
    (∀ s ∈ [stuck, State.reset, batch, ready], s.activity = .idle ∧
      ({ s with issue := [.host [0x13]] } : State).issue = .host (0x13 :: []) :: []) ∧
    stuck.st.fault = some .bracket ∧
    (State.reset.st.fault = none ∧ (0x13 : Byte) ≠ 0x01 ∧ State.reset.st.initDone = false) ∧
    (batch.st.fault = none ∧ batch.st.initDone = true ∧ batch.st.inBatch = true ∧ (0x13 : Byte) ≠ 0x0A ∧
      (0x13 : Byte) ≠ 0x0B) ∧
    (ready.st.fault = none ∧ ready.st.initDone = true ∧ ready.st.inBatch = false ∧
      ¬(0x01 ≤ (0x13 : Byte).toNat ∧ (0x13 : Byte).toNat ≤ 0x12)) := by
  refine ⟨?_, by decide⟩
  intro s hs
  simp only [List.mem_cons, List.not_mem_nil, or_false] at hs
  rcases hs with rfl | rfl | rfl | rfl <;> exact ⟨rfl, rfl⟩

theorem witness_FaultIsStickyAndTerminal : stuck.st.fault = some .bracket ∧ stuck.activity = .idle ∧
    ({ stuck with issue := [.host []] } : State).issue = .host [] :: [] := by decide

theorem witness_BeginAndEndToggleChipSelect :
    (ready.st.fault = none ∧ ready.st.initDone = true ∧ ready.st.inBatch = false ∧ ready.st.dcsN = true) ∧
    (opened.st.fault = none ∧ opened.st.initDone = true ∧ opened.st.inBatch = false ∧ opened.st.dcsN = false) ∧
    (batch.st.fault = none ∧ batch.st.initDone = true ∧ batch.st.inBatch = true) := by decide

theorem witness_SendOperationsSendTheirWords : (opened.Ready ∧ opened.st.dcsN = false) ∧
    (ready.Ready ∧ ready.st.dcsN = true) := by decide

theorem witness_SetAreaSetsWindow : ready.st.dcsN = true := by decide

theorem witness_BatchStartOpensBatch :
    (ready.st.fault = none ∧ ready.st.initDone = true ∧ ready.st.inBatch = false ∧ ready.st.dcsN = true) ∧
    ((1 : U16) ≠ 0 ∧ (0xFFFF : U16).toNat + (1 : U16).toNat - 1 ≤ 0xFFFF) ∧
    (0xFFFF < (0xFFFF : U16).toNat + (2 : U16).toNat - 1) ∧
    (opened.st.inBatch = false ∧ opened.st.dcsN = false) ∧ (batch.st.fault = none ∧ batch.st.inBatch = true) := by decide

theorem witness_BatchDrawAndStop : batch.InBatch ∧ ready.Ready := by decide

/-- A window that ends at the last column and row of the 90° screen. -/
theorem witness_BatchFillLaw : at90.Ready ∧ at90.st.dcsN = true ∧ at90.st.DimsAgree ∧
    ({ at90 with ctl := { Ctl.powerOn with madctl := some 0x48 } } : State).ctl.madctl
      = some (orientMadctl at90.st.orient.byte) ∧ (2 : U16) ≠ 0 ∧ (1 : U16) ≠ 0 ∧
    (238 : U16).toNat + (2 : U16).toNat ≤ at90.st.width.toNat ∧
    (319 : U16).toNat + (1 : U16).toNat ≤ at90.st.height.toNat ∧
    ([5, 6] : List U16).length = (2 : U16).toNat * (1 : U16).toNat := by
  unfold Block.DimsAgree; decide

theorem witness_DrawPixelClipsOrDraws : ready.Ready ∧ ready.st.dcsN = true ∧
    ready.st.width.toNat ≤ (320 : U16).toNat ∧ (319 : U16).toNat < ready.st.width.toNat ∧
    (239 : U16).toNat < ready.st.height.toNat ∧ opened.Ready ∧ opened.st.dcsN = false := by decide

theorem witness_ClampRectLaw : (320 : U16) ≠ 0 ∧ (240 : U16) ≠ 0 ∧ (0xFFFF : U16) ≠ 0 := by decide

theorem witness_FillRectFillsClampedRect : ready.Ready ∧ ready.st.DimsAgree ∧ ready.st.dcsN = true ∧
    (clampRect ready.st.width ready.st.height ⟨0, 0, 0, 10⟩).w = 0 ∧
    (clampRect ready.st.width ready.st.height ⟨0xFFFF, 0xFFFF, 2, 2⟩).w ≠ 0 ∧
    (clampRect ready.st.width ready.st.height ⟨0xFFFF, 0xFFFF, 2, 2⟩).h ≠ 0 ∧
    opened.Ready ∧ opened.st.DimsAgree ∧ opened.st.dcsN = false := by unfold Block.DimsAgree; decide

theorem witness_FillScreenFillsPanel : at90.Ready ∧ at90.st.DimsAgree ∧ at90.st.dcsN = true ∧
    opened.Ready ∧ opened.st.DimsAgree ∧ opened.st.dcsN = false := by unfold Block.DimsAgree; decide

theorem witness_SetOrientationSetsDimensions : ready.Ready ∧ ready.st.dcsN = true ∧
    ((0x89 : Byte), Orientation.deg270, (240 : U16), (320 : U16), (0x88 : Byte)) ∈
      ([(0xE8, .deg0, 320, 240, 0xE8), (0x49, .deg90, 240, 320, 0x48), (0x38, .deg180, 320, 240, 0x38),
        (0x89, .deg270, 240, 320, 0x88)] : List (Byte × Orientation × U16 × U16 × Byte)) ∧
    ((0x48 : Byte) ≠ 0xE8 ∧ (0x48 : Byte) ≠ 0x49 ∧ (0x48 : Byte) ≠ 0x38 ∧ (0x48 : Byte) ≠ 0x89) ∧
    opened.Ready ∧ opened.st.dcsN = false := by decide

theorem witness_OrientationTwiceIsOnce : ready.Ready ∧ ready.st.dcsN = true ∧
    ∃ t, exec (.setOrientation Orientation.deg90.byte) ready = .next t := ⟨by decide, by decide, _, rfl⟩

theorem witness_SetInvertedSendsInversion : ready.Ready ∧ ready.st.dcsN = true ∧ opened.Ready ∧ opened.st.dcsN = false := by
  decide

theorem witness_SetBrightnessIsRefused : ready.Ready ∧ opened.Ready := by decide

theorem witness_TouchCommandsConvert :
    (({ ready with st := { ready.st with tcsN := false } } : State).st.fault = none ∧
      ({ ready with st := { ready.st with tcsN := false } } : State).st.dcsN = true ∧
      ({ ready with st := { ready.st with tcsN := false } } : State).st.tcsN = false) ∧
    (opened.st.fault = none ∧ opened.st.dcsN = false) := by decide

/-- Each way out of a raw read: V48, V58, V55 and W5; and the bus conflict. -/
theorem witness_TouchRawReadSamples :
    (touched.Ready ∧ touched.st.dcsN = true ∧ 5 < (pressureAt touched).toNat ∧ axisAt touched 4 ≠ 0 ∧
      axisAt touched 10 ≠ 0) ∧
    (5 < (pressureAt { ready with adc := answersV48.set 14 0x21 }).toNat ∧
      axisAt { ready with adc := answersV48.set 14 0x21 } 4 ≠ 0 ∧
      axisAt { ready with adc := answersV48.set 14 0x21 } 10 = 0) ∧
    (5 < (pressureAt { ready with adc := answersV48.set 8 0x81 }).toNat ∧
      axisAt { ready with adc := answersV48.set 8 0x81 } 4 = 0) ∧
    (untouched.Ready ∧ untouched.st.dcsN = true ∧ (pressureAt untouched).toNat ≤ 5) ∧
    (opened.Ready ∧ opened.st.dcsN = false) := by decide

theorem witness_RawReadRangesAndNoiseFilter : touched.Ready ∧ touched.st.dcsN = true := by decide

theorem witness_DiscardedTouchBytesNeverMatter :
    answersV48.length = (answersV48.set 6 0x55).length ∧ 16 ≤ answersV48.length ∧
    answersV48.drop 16 = (answersV48.set 6 0x55).drop 16 ∧
    (∀ k ∈ [1, 3, 5, 8, 9, 11, 14, 15], answersV48[k]? = (answersV48.set 6 0x55)[k]?) ∧
    ready.Ready ∧ ready.st.dcsN = true := by decide

theorem witness_ReferencePointsAndSquares : (⟨300, 120⟩ : RawPoint) = refPoint 1 ∧
    ((⟨297, 117, 6, 6⟩ : Rect), (2 : U16)) ∈ crosshairSquares (refPoint 1) 1 2 ∧
    ready.st.dcsN = true ∧ ready.st.width = 320 ∧ ready.st.height = 240 := by decide

theorem witness_TouchCalibrateDrawsFirstTarget : ready.Ready ∧ ready.st.dcsN = true ∧ opened.Ready ∧
    opened.st.dcsN = false := by decide

/-- `ready` meets the invariant while it polls for any of the three points. -/
theorem pollingFor_inv (i : Nat) (adc : List Byte) (h : i ≤ 2) : (pollingFor i { ready with adc := adc }).Inv := by
  refine ⟨rfl, ⟨rfl, ?_, ?_, ?_⟩, fun _ => rfl, fun _ => rfl, rfl, rfl, ?_,
    (by unfold Block.DimsAgree; decide : ready.st.DimsAgree), ?_, ?_, ?_, ?_⟩
  · intro c hc; cases hc
  · rintro (h | h) <;> cases h
  · intro h; cases h
  · intro h; cases h
  · intro h; cases h
  · intro h; exact absurd rfl h
  · intro h; exact absurd rfl h
  · exact ⟨rfl, rfl, rfl, rfl, rfl, h⟩

theorem witness_CalibrationPollStep :
    ((pollingFor 1 touched).Inv ∧ (pollingFor 1 touched).activity = .polling 0xFFFF 0 ∧
      (∃ t, rawSample (pollingFor 1 touched) = .touch 191 515 129 t) ∧ (pollingFor 1 touched).st.calI < 2) ∧
    ((pollingFor 2 untouched).Inv ∧ ∃ t, rawSample (pollingFor 2 untouched) = .noTouch t) :=
  ⟨⟨pollingFor_inv 1 _ (by decide), rfl, ⟨_, rfl⟩, by decide⟩, pollingFor_inv 2 _ (by decide), _, rfl⟩

/-- A third point that gives a determinant, and, with the points at their power-on zeros, none. -/
theorem witness_CalibrationCommitsOrFails :
    ((pollingFor 2 touched).Inv ∧ (pollingFor 2 touched).activity = .polling 0xFFFF 0 ∧
      (pollingFor 2 touched).st.calI = 2 ∧ ∃ t, rawSample (pollingFor 2 touched) = .touch 191 515 129 t) ∧
    (computeCal .s64 { CalPoints.zero with p2 := ⟨515, 129⟩ }).cdiv = 0 ∧
    (computeCal .s64 { scaled with p2 := ⟨515, 129⟩ }).cdiv ≠ 0 :=
  ⟨⟨pollingFor_inv 2 _ (by decide), rfl, rfl, _, rfl⟩, by decide, by decide⟩

/-- A determinant of either sign. -/
theorem witness_CalibrationAffineLaw :
    (refPoint 2, scaled.p2) ∈ [(refPoint 0, scaled.p0), (refPoint 1, scaled.p1), (refPoint 2, scaled.p2)] ∧
    (coeffsExact scaled).div ≠ 0 ∧ scaled.Accepted ∧ 0 < (coeffsExact scaled).div ∧
    CalPoints.Accepted ⟨⟨900, 100⟩, ⟨100, 500⟩, ⟨500, 900⟩⟩ ∧
    (coeffsExact ⟨⟨900, 100⟩, ⟨100, 500⟩, ⟨500, 900⟩⟩).div < 0 := by decide

theorem witness_CalibrationBounds : CalPoints.Accepted ⟨⟨1, 1⟩, ⟨1023, 1⟩, ⟨1, 1023⟩⟩ := by decide

theorem witness_DivisionAndClamps : (1 : BitVec 32) ≠ 0 ∧ 0 < 0x7FFF ∧ 0x7FFF ≤ 0x7FFF ∧
    CalPoints.Accepted ⟨⟨1, 1⟩, ⟨1023, 1⟩, ⟨1, 1023⟩⟩ ∧ (1023 : U16).toNat ≤ 1023 := by decide

theorem witness_TruncationEqualsFloorAfterClamp : (-480000 : Int) ≠ 0 ∧ (480000 : Int) ≠ 0 := by decide

theorem witness_RemapTableAndInverses : (319 : U16).toNat < 320 ∧ (239 : U16).toNat < 240 := by decide

theorem witness_UncalibratedReadIsNoTouch : opened.Ready ∧ opened.st.calibrated = false := by decide

theorem witness_CalibratedReadUsesCache :
    ((calibratedBy scaled touched).Ready ∧ (calibratedBy scaled touched).st.calibrated = true ∧
      (calibratedBy scaled touched).st.dcsN = true ∧
      ∃ t, rawSample (calibratedBy scaled touched) = .touch 191 515 129 t) ∧
    (∃ t, rawSample (calibratedBy scaled untouched) = .noTouch t) ∧
    (calibratedBy scaled opened).Ready ∧ (calibratedBy scaled opened).st.calibrated = true ∧
    (calibratedBy scaled opened).st.dcsN = false :=
  ⟨⟨by decide, by decide, by decide, _, rfl⟩, ⟨_, rfl⟩, by decide, by decide, by decide⟩

/-- Raw point (515, 129) calibrated as the first target, under either arithmetic. -/
theorem witness_CalibrationRoundTrip : ∀ arith : CalArith, let pts : CalPoints := { scaled with p0 := ⟨515, 129⟩ }
    let s : State := { touched.onSt (fun b => { b with calibrated := true, cal := computeCal arith pts }) with
      params := { params with calArith := arith } }
    s.Ready ∧ s.st.DimsAgree ∧ s.st.dcsN = true ∧ s.st.calibrated = true ∧
    s.st.cal = computeCal s.params.calArith pts ∧
    ((s.params.calArith = .s64 ∧ (coeffsExact pts).div ≠ 0) ∨
      (s.params.calArith = .u32 ∧ 0 < (coeffsExact pts).div ∧ pts.Accepted)) ∧
    (refPoint 0, pts.p0) ∈ [(refPoint 0, pts.p0), (refPoint 1, pts.p1), (refPoint 2, pts.p2)] ∧
    (s.params.cacheMode = .exact ∨ (pts.p0.x ≠ s.st.lastTx ∧ pts.p0.y ≠ s.st.lastTy)) ∧
    (∃ t, rawSample s = .touch 191 pts.p0.x pts.p0.y t) ∧
    s.st.orient = .deg0 := by
  intro arith
  have hd : ready.st.DimsAgree := by unfold Block.DimsAgree; decide
  cases arith <;>
    exact ⟨by decide, hd, by decide, by decide, rfl, by decide, by decide, by decide, ⟨_, rfl⟩, by decide⟩

theorem witness_IdentityCalibration : (1023 : U16).toNat ≤ 1023 ∧ (640 : U16).toNat ≤ 1023 := by decide

theorem witness_InitEntersItsProgram : State.reset.st.fault = none ∧ State.reset.st.inBatch = false ∧
    opened.st.fault = none ∧ opened.st.inBatch = false := by decide

theorem witness_InitProgramInstructions : (inProgram [1, 2]).Selected ∧
    (inProgram [1, 2]).rom.readList (inProgram [1, 2]).st.ip (2 : BitVec 6).toNat = some [1, 2] ∧ 2 < (63 : BitVec 6).toNat ∧
    (inProgram [1, 2]).rom.read ((inProgram [1, 2]).st.ip + 2) = none := by decide

/-- The program of P1. -/
theorem witness_InitReachesInitialState :
    let s : State := { State.reset with
      rom := Memory.writeList [] 0 [0x41, 0x3A, 0x81, 0x55, 0xFF], issue := [.host [0x01, (7 : DivCode).setWidth 8]] }
    s.activity = .idle ∧ s.issue = .host [0x01, (7 : DivCode).setWidth 8] :: [] ∧ s.st.fault = none ∧
    s.st.inBatch = false ∧
    (∀ j, j < 5 → s.rom.read j = ([0x41, 0x3A, 0x81, 0x55, 0xFF] : List Byte)[j]?) ∧
    initRuns [0x41, 0x3A, 0x81, 0x55, 0xFF] = some [⟨false, [0x3A]⟩, ⟨true, [0x55]⟩] := by decide

theorem witness_StepKeepsInvariant : (pollingFor 0 ready).Inv ∧ ∃ t, step (pollingFor 0 untouched) = .next t :=
  ⟨pollingFor_inv 0 _ (by decide), _, rfl⟩

/-- `ready` meets the invariant between operations. -/
theorem ready_inv : ready.Inv := by
  have h := pollingFor_inv 0 [] (by decide)
  exact ⟨h.romWf, h.controller, h.engineOn, h.msbFirst, h.touchReleased, h.divisorRestored, h.batchSelected, h.dimsAgree,
    h.denominator, h.cacheX, h.cacheY, trivial⟩

theorem witness_BetweenOperationsItems : ready.Inv ∧ (∃ t, runSteps 2 ready = .next t ∧ t.activity = .idle ∧
    t.st.initDone = true ∧ t.st.fault = none) := ⟨ready_inv, _, rfl, rfl, rfl, rfl⟩

theorem witness_StepAlwaysAnswersNext : ready.Inv := ready_inv

theorem witness_RomIsNeverWritten : ∃ t, step ready = .next t := ⟨_, rfl⟩

/-- The poll of the third point, the first two of V63 recorded. -/
def lastPoll : State := (pollingFor 2 touched).onSt (fun b => { b with calT := scaled })

/-- The poll that ends a calibration with OK makes `calibrated` true. -/
theorem witness_CalibrationWordsWrittenOnlyByCalibration :
    lastPoll.st.calibrated = false ∧ ∃ t, step lastPoll = .next t ∧ t.st.calibrated = true := by
  refine ⟨rfl, ?_⟩
  obtain ⟨t, ht, hd, hi, hc⟩ : ∃ t, rawSample lastPoll = .touch 191 515 129 t ∧ t.Drawable ∧ t.st.calI = 2 ∧
      (computeCal t.params.calArith { t.st.calT with p2 := ⟨515, 129⟩ }).cdiv ≠ 0 :=
    ⟨_, rfl, ⟨rfl, by decide, by decide⟩, rfl, by decide⟩
  have e : step lastPoll = .next (acceptPoint 0xFFFF 0 t.st.calI 515 129 t).final := by
    have : step lastPoll = .next (pollBody 0xFFFF 0 lastPoll).final := rfl
    rw [this, pollBody, ht]
  rw [acceptPoint_last _ _ _ _ _ hd hi, finishCal_go _ (by rw [State.accepted_st])] at e
  have hw : (computeCal (t.accepted 0xFFFF 0 515 129).params.calArith (t.accepted 0xFFFF 0 515 129).st.calT).cdiv ≠ 0 := by
    have hp : (t.accepted 0xFFFF 0 515 129).params = t.params := by
      unfold State.accepted State.filledRect
      dsimp only
      split <;> rfl
    rw [State.accepted_st, hp]
    show (computeCal _ (t.st.calT.set t.st.calI _)).cdiv ≠ 0
    rw [hi]
    exact hc
  rw [if_neg hw] at e
  exact ⟨_, e, rfl⟩

theorem witness_DisplayDivisorWrittenOnlyByInit : let s : State := { ready with issue := [.host [0x01, 7]] }
    ∃ t, step s = .next t ∧ t.st.dispDiv ≠ s.st.dispDiv := ⟨_, rfl, by decide⟩

/-- An instruction; a step that leaves the block uncalibrated, one that calibrates it, one that is no next state. -/
theorem witness_UncalibratedWordsAreNeverRead : ready.st.calibrated = false ∧ (∃ t, exec .touchRead ready = .next t) ∧
    (∃ t, step (pollingFor 1 untouched) = .next t ∧ t.st.calibrated = false) ∧
    (lastPoll.st.calibrated = false ∧ ∃ t, step lastPoll = .next t ∧ t.st.calibrated = true) ∧
    (pollingFor 3 ready).st.calibrated = false ∧ ∀ t, step (pollingFor 3 ready) ≠ .next t :=
  ⟨rfl, ⟨_, rfl⟩, ⟨_, rfl, rfl⟩, witness_CalibrationWordsWrittenOnlyByCalibration, rfl, fun _ h => by cases h⟩

theorem witness_PowerOnValues : Block.powerOn.initDone = false ∧ Block.powerOn.fault = none ∧
    Instr.space .touchRead = .host ∧ ∀ k, Instr.touchRead ≠ .initBlock k :=
  ⟨rfl, rfl, rfl, fun _ h => by cases h⟩

end Sys2Proof.Tests
end

/-! PROOFS of the display controller's obligations (R74, R76 to R78). A word instruction, run in a block that admits
words, hands its word to the controller; then each claim is one about the controller alone. -/

namespace Sys2Proof.Machine

/-! ### A word instruction as a word -/

@[simp] theorem word9_msb (dcx : Bool) (b : Byte) : (word9 dcx b).msb = dcx := BitVec.msb_cons

@[simp] theorem word9_payload (dcx : Bool) (b : Byte) : (word9 dcx b).extractLsb' 0 8 = b := by simp [word9]

/-- Each of the wire rows sends the word that encodes it (R90, R96). -/
theorem exec_of_encode_wire {i : Instr} {w : Word9} (h : encode i = .wire w) (s : State) :
    exec i s = .next (stepOp (word w.msb (w.extractLsb' 0 8)) s) := by
  cases i with
  | cmd b => cases h; rw [word9_msb, word9_payload]; rfl
  | data b => cases h; rw [word9_msb, word9_payload]; rfl
  | _ => cases h <;> rfl

/-- A wire instruction in a block that admits words: its word is on the record and the controller has received it. -/
theorem exec_wire_selected {i : Instr} {dcx : Bool} {b : Byte} {s : State} (h : encode i = .wire (word9 dcx b))
    (hs : s.Selected) : exec i s = .next (s.after [.w9 dcx b] (s.st.afterWord dcx) (s.ctl.word dcx b)) := by
  obtain ⟨hfault, hdcs⟩ := hs
  rw [exec_of_encode_wire h, word9_msb, word9_payload, stepOp_admitted _ _ hfault, word_go _ _ _ hdcs, Flow.final_go]

/-- `exec_wire_selected` for a data word, as far as the controller: what the claims about data words rest on. -/
theorem exec_data_selected {b : Byte} {s : State} (hs : s.Selected) :
    ∃ t, exec (.data b) s = .next t ∧ t.ctl = s.ctl.dataWord b :=
  ⟨_, exec_wire_selected rfl hs, rfl⟩

/-! ### Command words (R74) -/

/-- A command word as one record update: what every command writes, then the field of each command that has one. -/
theorem Ctl.command_eq (c : Ctl) (b : Byte) : c.command b = { c with
    cmd := some b, pcount := 0, pbuf := [], hi := none
    cx := if b = 0x2C then c.xs else c.cx
    cy := if b = 0x2C then c.ys else c.cy
    on := if b = 0x28 then some false else if b = 0x29 then some true else c.on
    awake := if b = 0x11 then some true else c.awake
    inv := if b = 0x20 then some false else if b = 0x21 then some true else c.inv } := by
  unfold Ctl.command
  split
  case h_7 => simp_all [Ctl.latchCommand]
  all_goals rfl

/-- Settles O12: the instruction sends its word, and the controller's reaction is `Ctl.command_eq`. -/
theorem commandWordEffect : Obligations.CommandWordEffect := by
  intro i b s henc hs
  exact ⟨_, exec_wire_selected henc hs, Ctl.command_eq s.ctl b⟩

/-! ### One parameter byte, or none tracked (R78) -/

theorem Ctl.madctlData_first {c : Ctl} (b : Byte) (h : c.pcount = 0) :
    c.madctlData b = { c with madctl := some b, pcount := 1 } := by
  simp [Ctl.madctlData, Ctl.count, h]

theorem Ctl.madctlData_later {c : Ctl} (b : Byte) (h : c.pcount ≠ 0) : c.madctlData b = c.count := by
  simp [Ctl.madctlData, h]

theorem Ctl.pixfmtData_first {c : Ctl} (b : Byte) (h : c.pcount = 0) :
    c.pixfmtData b = { c with pixfmt := some b, pcount := 1 } := by
  simp [Ctl.pixfmtData, Ctl.count, h]

theorem Ctl.pixfmtData_later {c : Ctl} (b : Byte) (h : c.pcount ≠ 0) : c.pixfmtData b = c.count := by
  simp [Ctl.pixfmtData, h]

/-- Under a command without tracked parameters, or none, a data word is only counted (R78). -/
theorem Ctl.dataWord_untracked {c : Ctl} (b : Byte) (hcol : c.cmd ≠ some 0x2A) (hpage : c.cmd ≠ some 0x2B)
    (hwrite : c.cmd ≠ some 0x2C) (hmad : c.cmd ≠ some 0x36) (hfmt : c.cmd ≠ some 0x3A) :
    c.dataWord b = c.count := by
  unfold Ctl.dataWord
  split
  case h_6 => rfl
  all_goals contradiction

/-- Settles O15: one clause for each kind of command in force, the two one-parameter commands split by the count. -/
theorem oneParameterDataWords : Obligations.OneParameterDataWords := by
  intro b s hs
  obtain ⟨t, hexec, hctl⟩ := exec_data_selected (b := b) hs
  refine ⟨t, hexec, fun hcmd h0 => ?_, fun hcmd h0 => ?_, fun hcmd h0 => ?_, fun hcol hpage hwrite hmad hfmt => ?_⟩
  · rw [hctl, Ctl.dataWord_madctl b hcmd, Ctl.madctlData_first b h0]
  · rw [hctl, Ctl.dataWord_pixfmt b hcmd, Ctl.pixfmtData_first b h0]
  · obtain hcmd | hcmd := hcmd
    · rw [hctl, Ctl.dataWord_madctl b hcmd, Ctl.madctlData_later b h0, Ctl.count]
    · rw [hctl, Ctl.dataWord_pixfmt b hcmd, Ctl.pixfmtData_later b h0, Ctl.count]
  · rw [hctl, Ctl.dataWord_untracked b hcol hpage hwrite hmad hfmt, Ctl.count]

/-! ### Pixels (R76, R77) -/

/-- The panel has 76 800 positions under every MADCTL byte, so `PHYS_MAP` maps every logical position. -/
theorem physCell_of_lt {m : Byte} {x y : Nat} (hx : x < panelWidth m) (hy : y < panelHeight m) :
    ∃ k, physCell m x y = some k := by
  have hpos : y * panelWidth m + x < 76800 := by
    cases hmv : m.getLsbD 5 <;>
      simp only [panelWidth, panelHeight, Config.lcdWidth, Config.lcdHeight, hmv, if_true, Bool.false_eq_true,
        if_false] at * <;> omega
  exact ⟨_, dif_pos ⟨hx, hy, hpos⟩⟩

/-- In contract a pixel write reaches the physical position of the cursor (R76). -/
theorem Ctl.target_in_contract {c : Ctl} {m : Byte} (hm : c.madctl = some m) (ho : isOrientationMadctl m = true)
    (hw : c.windowOk m = true) : c.target = physCell m c.cx.toNat c.cy.toNat := by
  simp [Ctl.target, hm, ho, hw]

/-- Out of contract a pixel write reaches no one position (R76, R79). -/
theorem Ctl.target_out_of_contract {c : Ctl}
    (h : ∀ m, c.madctl = some m → isOrientationMadctl m = true → c.windowOk m = false) : c.target = none := by
  unfold Ctl.target
  split
  · rfl
  · next m hm => cases ho : isOrientationMadctl m <;> simp_all

theorem Ctl.gramWrite_gram_of_target {c : Ctl} {k : Nat} (p : U16) (h : c.target = some k) :
    (c.gramWrite p).gram = c.gram.write k p := by
  simp [Ctl.gramWrite, h]

theorem Ctl.gramWrite_gram_of_no_target {c : Ctl} (p : U16) (h : c.target = none) :
    (c.gramWrite p).gram = Gram.havoc := by
  simp [Ctl.gramWrite, h]

/-- In contract, with the cursor at a logical position, a pixel write changes that position's pixel and no other (R76). -/
theorem Ctl.gramWrite_in_contract {c : Ctl} {m : Byte} (p : U16) (hm : c.madctl = some m)
    (ho : isOrientationMadctl m = true) (hw : c.windowOk m = true) (hx : c.cx.toNat < panelWidth m)
    (hy : c.cy.toNat < panelHeight m) :
    ∃ k, physCell m c.cx.toNat c.cy.toNat = some k ∧ (c.gramWrite p).gram.read k = some p ∧
      ∀ j, j ≠ k → (c.gramWrite p).gram.read j = c.gram.read j := by
  obtain ⟨k, hk⟩ := physCell_of_lt hx hy
  have hgram := Ctl.gramWrite_gram_of_target p ((Ctl.target_in_contract hm ho hw).trans hk)
  rw [hgram]
  exact ⟨k, hk, Gram.read_write_same .., fun j hj => Gram.read_write_other _ p hj⟩

/-- Settles O14: the first byte is held; the second is a pixel write, then the cursor's advance, then the held byte
dropped, and each part touches its own fields. -/
theorem pixelDataWords : Obligations.PixelDataWords := by
  intro b s hs hcmd
  obtain ⟨t, hexec, hctl⟩ := exec_data_selected (b := b) hs
  rw [Ctl.dataWord_write b hcmd] at hctl
  refine ⟨t, hexec, fun hhi => hctl.trans (Ctl.pixelData_first b hhi), fun h hhi => ?_⟩
  rw [Ctl.pixelData_second b hhi] at hctl
  have hgram : t.ctl.gram = (s.ctl.gramWrite (joinBytes h b)).gram := by rw [hctl, Ctl.advance_gram]
  refine ⟨?_, ?_, ?_, fun m hm ho hw hx hy => ?_, fun hout j => ?_⟩
  · rw [hctl, Ctl.gramWrite_advance_frame]
  · simp [hctl, Ctl.advance_cx_toNat]
  · simp [hctl, Ctl.advance_cy_toNat]
  · rw [hgram]
    exact Ctl.gramWrite_in_contract _ hm ho hw hx hy
  · rw [hgram, Ctl.gramWrite_gram_of_no_target _ (Ctl.target_out_of_contract hout), Gram.read_havoc]

end Sys2Proof.Machine

/-! PROOFS about the touch-ADC command byte (R107, R108): its fields are read back where its assembly placed them, and
the decoder accepts the four bytes the block sends. -/

namespace Sys2Proof

/-! ### The fields of an assembled command (R107) -/

@[simp] theorem touchCommand_channel (a : BitVec 3) (mode8 single : Bool) (pd : BitVec 2) :
    (touchCommand a mode8 single pd).extractLsb' 4 3 = a := by
  ext i hi
  interval_cases i <;> simp [touchCommand]

@[simp] theorem touchCommand_pd (a : BitVec 3) (mode8 single : Bool) (pd : BitVec 2) :
    (touchCommand a mode8 single pd).extractLsb' 0 2 = pd := by
  ext i hi
  interval_cases i <;> simp [touchCommand]

/-- The two multi-bit fields have their own lemmas; the three flags are single bits of the assembly. -/
theorem touchFieldsOf_touchCommand (a : BitVec 3) (mode8 single : Bool) (pd : BitVec 2) :
    touchFieldsOf (touchCommand a mode8 single pd) =
      { start := true, channel := a, mode8 := mode8, single := single, pd := pd } := by
  rw [touchFieldsOf, touchCommand_channel, touchCommand_pd]
  simp [touchCommand]

/-! ### The four bytes the block sends (R108) -/

theorem touchByteZ1_eq : touchByteZ1 = 0xB8 := by decide

theorem touchByteZ2_eq : touchByteZ2 = 0xC8 := by decide

theorem touchByteX_eq : touchByteX = 0xD0 := by decide

theorem touchByteY_eq : touchByteY = 0x90 := by decide

/-- Each touch instruction has one byte, and no other byte is a touch command (R108, R110). -/
theorem decodeTouch_eq_ok_iff {b : Byte} {i : Instr} :
    decodeTouch b = .ok i ↔
      (b = 0xB8 ∧ i = .touchZ1) ∨ (b = 0xC8 ∧ i = .touchZ2) ∨ (b = 0xD0 ∧ i = .touchX) ∨
        (b = 0x90 ∧ i = .touchY) := by
  constructor
  · intro h
    unfold decodeTouch at h
    split at h <;> cases h <;> simp
  · rintro (⟨rfl, rfl⟩ | ⟨rfl, rfl⟩ | ⟨rfl, rfl⟩ | ⟨rfl, rfl⟩) <;> rfl

/-- Settles O6: the fields by the assembly's bit positions, the four bytes by computing their assembly, and the
decoder's rejection of every other byte by `decodeTouch_eq_ok_iff`. -/
theorem touchCommandAssembly : Obligations.TouchCommandAssembly := by
  have hfour : ∀ b i, decode (.touch b) = .ok i → b = 0xB8 ∨ b = 0xC8 ∨ b = 0xD0 ∨ b = 0x90 := fun _ _ h => by
    obtain ⟨hb, -⟩ | ⟨hb, -⟩ | ⟨hb, -⟩ | ⟨hb, -⟩ := decodeTouch_eq_ok_iff.mp h <;> simp [hb]
  exact ⟨touchFieldsOf_touchCommand, hfour,
    congrArg Code.touch touchByteZ1_eq, congrArg Code.touch touchByteZ2_eq,
    congrArg Code.touch touchByteX_eq, congrArg Code.touch touchByteY_eq,
    touchByteZ1_eq, touchByteZ2_eq, touchByteX_eq, touchByteY_eq⟩

end Sys2Proof

/-! PROOFS about the framer (R131, R134 to R138): the pre-bit's levels; what a host operation answers where the prelude
admits it, and so what the brackets and the word senders do. -/

namespace Sys2Proof.Machine

/-! ### The pre-bit (R131) -/

/-- Settles O8: SCK is the latch only while the engine is off, so of the pre-bit's two SCK writes only the second shows,
and MOSI is driven exactly in the two states between the engine's disable and its enable. -/
theorem preBitHasOneRisingEdge : Obligations.PreBitHasOneRisingEdge := by
  intro dcx s hspe
  refine ⟨?_, ?_, rfl, rfl⟩
  · simp [preBitStates, State.sckPin_eq, hspe]
  · simp [preBitStates, State.mosiPin, hspe]

/-! ### Operations with no results (R300, R304) -/

/-- In a ready block an operation whose body goes through answers OK. -/
theorem plainOp_go {k : OpClass} {body : State → Flow} {s t : State} (hs : s.Ready) (hbody : body s = .go t) :
    plainOp k body s = t.setResult .ok := by
  obtain ⟨hfault, hinit, hbatch⟩ := hs
  rw [plainOp, hostOp_admitted _ _ _ hfault (.inr hinit) (.inr hbatch), hbody, Flow.map_go, Flow.final_go]

/-- In a ready block an operation whose body faults ends where the fault left it. -/
theorem plainOp_stop {k : OpClass} {body : State → Flow} {s t : State} (hs : s.Ready) (hbody : body s = .stop t) :
    plainOp k body s = t := by
  obtain ⟨hfault, hinit, hbatch⟩ := hs
  rw [plainOp, hostOp_admitted _ _ _ hfault (.inr hinit) (.inr hbatch), hbody, Flow.map_stop, Flow.final_stop]

/-- The prelude's third check: an open batch admits no plain operation. -/
theorem plainOp_inBatch (body : State → Flow) {s : State} (hfault : s.st.fault = none) (hinit : s.st.initDone = true)
    (hbatch : s.st.inBatch = true) : plainOp .plain body s = s.raise .batch := by
  simp [plainOp, hostOp, hfault, hinit, hbatch]

/-! ### Brackets (R134, R135) -/

theorem beginBody_go {s : State} (hd : s.st.dcsN = true) : beginBody s = .go (State.writeDcs false s) := by
  simp [beginBody, hd]

theorem beginBody_stop {s : State} (hd : s.st.dcsN = false) : beginBody s = .stop (s.raise .bracket) := by
  simp [beginBody, hd, fail]

theorem endBody_go {s : State} (hd : s.st.dcsN = false) : endBody s = .go (State.writeDcs true s) := by
  simp [endBody, hd]

theorem endBody_stop {s : State} (hd : s.st.dcsN = true) : endBody s = .stop (s.raise .bracket) := by
  simp [endBody, hd, fail]

/-- Settles O18: the prelude first, then each body by the chip-select. -/
theorem beginAndEndToggleChipSelect : Obligations.BeginAndEndToggleChipSelect := by
  intro s hfault hinit
  refine ⟨fun hbatch hd => ?_, fun hbatch hd => ?_, fun hbatch hd => ?_, fun hbatch hd => ?_,
    fun hbatch => ⟨?_, ?_⟩⟩
  · exact congrArg Host.Outcome.next (plainOp_go ⟨hfault, hinit, hbatch⟩ (beginBody_go hd))
  · exact congrArg Host.Outcome.next (plainOp_stop ⟨hfault, hinit, hbatch⟩ (beginBody_stop hd))
  · exact congrArg Host.Outcome.next (plainOp_go ⟨hfault, hinit, hbatch⟩ (endBody_go hd))
  · exact congrArg Host.Outcome.next (plainOp_stop ⟨hfault, hinit, hbatch⟩ (endBody_stop hd))
  · exact congrArg Host.Outcome.next (plainOp_inBatch beginBody hfault hinit hbatch)
  · exact congrArg Host.Outcome.next (plainOp_inBatch endBody hfault hinit hbatch)

/-! ### Word senders (R136 to R138) -/

/-- Words with the chip-select deasserted fault at the first one, before any pin is touched. -/
theorem words_stop (w : Bool × Byte) (ws : List (Bool × Byte)) {s : State} (hd : s.st.dcsN = true) :
    words (w :: ws) s = .stop (s.raise .bracket) := by
  rw [words, word_stop _ _ _ hd, Flow.andThen_stop]

/-- Settles O19: inside a bracket the words go through, by `word_go` and `words_go`; outside one the first faults. -/
theorem sendOperationsSendTheirWords : Obligations.SendOperationsSendTheirWords := by
  intro s hs
  refine ⟨fun hd => ⟨fun b => ?_, fun b => ?_, fun v => ?_⟩,
    fun hd => ⟨fun b => ?_, fun b => ?_, fun v => ?_⟩⟩
  · exact congrArg Host.Outcome.next (plainOp_go hs (word_go false b s hd))
  · exact congrArg Host.Outcome.next (plainOp_go hs (word_go true b s hd))
  · exact congrArg Host.Outcome.next (plainOp_go hs (words_go (dataWords16 v) s hd))
  · exact congrArg Host.Outcome.next (plainOp_stop hs (word_stop false b s hd))
  · exact congrArg Host.Outcome.next (plainOp_stop hs (word_stop true b s hd))
  · exact congrArg Host.Outcome.next (plainOp_stop hs (words_stop (true, hiByte v) [(true, loByte v)] hd))

end Sys2Proof.Machine

/-! PROOF of the framing law (R130, R81) for every step. A state stands at one of the places of the record's automaton;
each operation moves it from place to place, and ends, also where it faults, at one a framed state may stand at. -/

namespace Sys2Proof.Machine

/-! ### Where a state stands -/

/-- The display chip-select's level at a place of the record. -/
def Framing.dcsN : Framing → Bool
  | .released | .listening => true
  | .selected | .mosiSet | .sckLow | .engineOff | .edge | .engineOn => false

/-- The touch chip-select's level at a place of the record. -/
def Framing.tcsN : Framing → Bool
  | .listening => false
  | .released | .selected | .mosiSet | .sckLow | .engineOff | .edge | .engineOn => true

/-- The record keeps the law and stands at `f`, and the two chip-selects are as they are there. -/
def State.At (f : Framing) (s : State) : Prop :=
  framing s.wireRev = some f ∧ s.st.dcsN = f.dcsN ∧ s.st.tcsN = f.tcsN

theorem State.At.dcsN {f : Framing} {s : State} (h : s.At f) : s.st.dcsN = f.dcsN := h.2.1

theorem State.At.tcsN {f : Framing} {s : State} (h : s.At f) : s.st.tcsN = f.tcsN := h.2.2

/-- A framed state stands between two words or outside a bracket, as its display chip-select says. -/
theorem State.framed_iff {s : State} : s.Framed ↔ s.At .released ∨ s.At .selected := by
  cases hd : s.st.dcsN <;> simp [State.Framed, State.At, Framing.dcsN, Framing.tcsN, hd, and_comm]

theorem State.At.framed_of_released {s : State} (h : s.At .released) : s.Framed := State.framed_iff.mpr (.inl h)

theorem State.At.framed_of_selected {s : State} (h : s.At .selected) : s.Framed := State.framed_iff.mpr (.inr h)

theorem State.Framed.at_released {s : State} (h : s.Framed) (hd : s.st.dcsN = true) : s.At .released := by
  obtain hr | hs := State.framed_iff.mp h
  · exact hr
  · exact absurd (hd.symm.trans hs.dcsN) (by decide)

theorem State.Framed.at_selected {s : State} (h : s.Framed) (hd : s.st.dcsN = false) : s.At .selected := by
  obtain hr | hs := State.framed_iff.mp h
  · exact absurd (hd.symm.trans hr.dcsN) (by decide)
  · exact hs

/-! ### State writes and exchanges -/

/-- One event moves the place as the law says. -/
theorem State.At.event {f g : Framing} {e : WireEvent} {s t : State} (h : s.At f)
    (hrev : t.wireRev = e :: s.wireRev) (hnext : f.next e = some g) (hd : t.st.dcsN = g.dcsN)
    (ht : t.st.tcsN = g.tcsN) : t.At g := by
  refine ⟨?_, hd, ht⟩
  rw [hrev, framing, h.1]
  exact hnext

theorem State.At.writeDcs_false {s : State} (h : s.At .released) : (State.writeDcs false s).At .selected :=
  h.event rfl rfl rfl h.tcsN

/-- The display may be released wherever a framed state stands. -/
theorem State.Framed.writeDcs_true {s : State} (h : s.Framed) : (State.writeDcs true s).At .released := by
  obtain hr | hs := State.framed_iff.mp h
  · exact hr.event rfl rfl rfl hr.tcsN
  · exact hs.event rfl rfl rfl hs.tcsN

theorem State.At.writeTcs_true {s : State} (h : s.At .released) : (State.writeTcs true s).At .released :=
  h.event rfl rfl h.dcsN rfl

theorem State.At.writeRst {s : State} (h : s.At .released) (v : Bool) : (State.writeRst v s).At .released :=
  h.event (State.writeRst_wireRev s v) rfl (by simpa using h.dcsN) (by simpa using h.tcsN)

theorem State.At.writeDiv {s : State} (h : s.At .released) (k : DivCode) : (State.writeDiv k s).At .released :=
  h.event rfl rfl h.dcsN h.tcsN

theorem State.At.writeOrder {s : State} (h : s.At .released) (o : BitOrder) : (State.writeOrder o s).At .released :=
  h.event rfl rfl h.dcsN h.tcsN

theorem State.At.emit_wait {s : State} (h : s.At .released) (ms : Nat) : (State.emit (.wait ms) s).At .released :=
  h.event rfl rfl h.dcsN h.tcsN

/-- A touch exchange with no ADC listening: a touch command run as a step of its own (assumption 37). -/
theorem State.At.touchXfer {s : State} (h : s.At .released) (o : Byte) : (touchXfer o s).At .released :=
  h.event rfl rfl h.dcsN h.tcsN

/-- One word takes the place through the pre-bit and the payload, and back between two words (R130). -/
theorem State.At.after_word {s : State} (h : s.At .selected) (dcx : Bool) (b : Byte) (c : Ctl) :
    (s.after [.w9 dcx b] (s.st.afterWord dcx) c).At .selected := by
  refine ⟨?_, h.dcsN, h.tcsN⟩
  simp [State.after, expand, wordExpansion, framing, Framing.next, h.1]

/-! ### Parts of an operation -/

/-- A part of an operation that goes on ends where `P` holds; one that faults ends framed. -/
def Flow.Goes (P : State → Prop) : Flow → Prop
  | .go s => P s
  | .stop s => s.Framed

theorem Flow.Goes.andThen {P Q : State → Prop} {f : Flow} {k : State → Flow} (hf : f.Goes P)
    (hk : ∀ s, P s → (k s).Goes Q) : (f.andThen k).Goes Q := by
  cases f with
  | go s => exact hk s hf
  | stop s => exact hf

theorem Flow.Goes.map {P Q : State → Prop} {f : Flow} {k : State → State} (hf : f.Goes P)
    (hk : ∀ s, P s → Q (k s)) : (f.map k).Goes Q := by
  cases f with
  | go s => exact hk s hf
  | stop s => exact hf

theorem Flow.Goes.mono {P Q : State → Prop} {f : Flow} (hf : f.Goes P) (h : ∀ s, P s → Q s) : f.Goes Q := by
  cases f with
  | go s => exact h s hf
  | stop s => exact hf

theorem Flow.Goes.final {f : Flow} (hf : f.Goes State.Framed) : f.final.Framed := by
  cases f <;> exact hf

/-- A fault writes nothing on the record and no chip-select. -/
theorem fail_goes {P : State → Prop} {s : State} (h : s.Framed) (code : FaultCode) : (fail code s).Goes P := h

theorem requireNoBracket_goes {P : State → Prop} {body : State → Flow} {s : State} (h : s.Framed)
    (hbody : s.At .released → (body s).Goes P) : (requireNoBracket body s).Goes P := by
  unfold requireNoBracket
  split
  · next hd => exact hbody (h.at_released hd)
  · exact fail_goes h _

/-! ### Words and brackets (R130 to R135) -/

theorem word_goes {s : State} (h : s.Framed) (dcx : Bool) (b : Byte) : (word dcx b s).Goes (State.At .selected) := by
  cases hd : s.st.dcsN with
  | true => rw [word_stop _ _ _ hd]; exact h
  | false => rw [word_go _ _ _ hd]; exact (h.at_selected hd).after_word dcx b _

/-- What holds where every word goes on holds after a sequence of words. -/
theorem words_goes {P : State → Prop} (hword : ∀ (w : Bool × Byte) (s : State), P s → (word w.1 w.2 s).Goes P)
    (ws : List (Bool × Byte)) {s : State} (h : P s) : (words ws s).Goes P := by
  induction ws generalizing s with
  | nil => exact h
  | cons w ws ih => exact (hword w s h).andThen fun t ht => ih ht

theorem words_goes_selected (ws : List (Bool × Byte)) {s : State} (h : s.At .selected) :
    (words ws s).Goes (State.At .selected) :=
  words_goes (fun w _ ht => word_goes ht.framed_of_selected w.1 w.2) ws h

theorem words_goes_framed (ws : List (Bool × Byte)) {s : State} (h : s.Framed) : (words ws s).Goes State.Framed :=
  words_goes (fun w _ ht => (word_goes ht w.1 w.2).mono fun _ hu => hu.framed_of_selected) ws h

theorem bracketed_goes (ws : List (Bool × Byte)) {s : State} (h : s.At .released) :
    (bracketed ws s).Goes (State.At .released) :=
  (words_goes_selected ws h.writeDcs_false).map fun _ ht => ht.framed_of_selected.writeDcs_true

theorem beginBody_goes {s : State} (h : s.Framed) : (beginBody s).Goes State.Framed := by
  cases hd : s.st.dcsN with
  | true => rw [beginBody_go hd]; exact (h.at_released hd).writeDcs_false.framed_of_selected
  | false => rw [beginBody_stop hd]; exact h

theorem endBody_goes {s : State} (h : s.Framed) : (endBody s).Goes State.Framed := by
  cases hd : s.st.dcsN with
  | true => rw [endBody_stop hd]; exact h
  | false => rw [endBody_go hd]; exact h.writeDcs_true.framed_of_released

/-! ### Display operations (R160 to R169) -/

theorem setArea_goes (x0 y0 x1 y1 : U16) {s : State} (h : s.At .released) :
    (setArea x0 y0 x1 y1 s).Goes (State.At .released) :=
  (bracketed_goes _ h).andThen fun _ ht => bracketed_goes _ ht

theorem batchStartBody_goes (x y w h : U16) {s : State} (hs : s.Framed) :
    (batchStartBody x y w h s).Goes State.Framed := by
  refine requireNoBracket_goes hs fun hr => ?_
  split
  · have hopen : ((setArea x y (rangeEnd x w) (rangeEnd y h) s).map (State.writeDcs false)).Goes
        (State.At .selected) := (setArea_goes _ _ _ _ hr).map fun _ ht => ht.writeDcs_false
    exact (hopen.andThen fun _ ht => word_goes ht.framed_of_selected _ _).map fun _ ht =>
      State.At.framed_of_selected ht
  · exact fail_goes hs _

theorem batchDrawBody_goes (c : U16) {s : State} (h : s.Framed) : (batchDrawBody c s).Goes State.Framed := by
  unfold batchDrawBody
  split
  · exact words_goes_framed _ h
  · exact fail_goes h _

theorem batchStopBody_goes {s : State} (h : s.Framed) : (batchStopBody s).Goes State.Framed := by
  unfold batchStopBody
  split
  · exact h.writeDcs_true.framed_of_released
  · exact fail_goes h _

theorem drawTimes_goes (c : U16) (n : Nat) {s : State} (h : s.Framed) : (drawTimes c n s).Goes State.Framed := by
  induction n generalizing s with
  | zero => exact h
  | succ n ih => exact (batchDrawBody_goes c h).andThen fun _ ht => ih ht

theorem solidBatch_goes (r : Rect) (c : U16) (n : Nat) {s : State} (h : s.Framed) :
    (solidBatch r c n s).Goes State.Framed :=
  ((batchStartBody_goes _ _ _ _ h).andThen fun _ ht => drawTimes_goes c n ht).andThen fun _ ht => batchStopBody_goes ht

theorem drawPixelBody_goes (x y c : U16) {s : State} (h : s.Framed) : (drawPixelBody x y c s).Goes State.Framed := by
  refine requireNoBracket_goes h fun _ => ?_
  split
  · exact h
  · exact solidBatch_goes _ _ _ h

theorem fillRectBody_goes (r : Rect) (c : U16) {s : State} (h : s.Framed) : (fillRectBody r c s).Goes State.Framed := by
  refine requireNoBracket_goes h fun _ => ?_
  dsimp only
  split
  · exact h
  · exact solidBatch_goes _ _ _ h

theorem fillScreenBody_goes (c : U16) {s : State} (h : s.Framed) : (fillScreenBody c s).Goes State.Framed :=
  requireNoBracket_goes h fun _ => solidBatch_goes _ _ _ h

theorem applyOrientation_goes (o : Orientation) {s : State} (h : s.At .released) :
    (applyOrientation o s).Goes (State.At .released) := by
  have hmadctl : (bracketed (commandWords 0x36 [orientMadctl o.byte])
      { s with st := { s.st with width := orientWidth o.byte, height := orientHeight o.byte } }).Goes
      (State.At .released) := bracketed_goes _ h
  exact (hmadctl.andThen fun _ ht => setArea_goes _ _ _ _ ht).map fun _ ht => ht

theorem setOrientationBody_goes (o : Byte) {s : State} (h : s.Framed) :
    (setOrientationBody o s).Goes State.Framed := by
  refine requireNoBracket_goes h fun hr => ?_
  split
  · exact (applyOrientation_goes _ hr).mono fun _ ht => ht.framed_of_released
  · exact fail_goes h _

theorem setInvertedBody_goes (inv : Bool) {s : State} (h : s.Framed) : (setInvertedBody inv s).Goes State.Framed :=
  requireNoBracket_goes h fun hr => (bracketed_goes _ hr).mono fun _ ht => ht.framed_of_released

/-! ### Touch sampling (R200 to R209) -/

/-- The exchanges of a sample leave the ADC listening. -/
theorem framing_touchEvents {rev : List WireEvent} (h : framing rev = some .listening) (s : State) (os : List Byte)
    (k : Nat) : framing ((touchEvents s os k).reverse ++ rev) = some .listening := by
  induction os generalizing rev k with
  | nil => exact h
  | cons o os ih =>
    have hx8 : framing (.x8 o (adcByte s k) :: rev) = some .listening := by simp [framing, h, Framing.next]
    simpa [touchEvents] using ih hx8 (k + 1)

/-- A touch sample selects the ADC, exchanges, and releases it: only while the display is not selected (R81, R208). -/
theorem State.At.sampled {s : State} (h : s.At .released) (os : List Byte) : (s.sampled os).At .released := by
  refine ⟨?_, h.dcsN, rfl⟩
  have hlisten : framing (.cst false :: .div s.params.div8 :: s.wireRev) = some .listening := by
    simp [framing, h.1, Framing.next]
  have hexchanged := framing_touchEvents hlisten s os 0
  simp [State.sampled, touchRecord, framing, Framing.next, hexchanged]

/-- A raw sample ends framed, whatever it comes to. -/
def Sampled.Framed : Sampled → Prop
  | .conflict s | .noTouch s | .touch _ _ _ s => s.Framed

theorem rawSample_framed {s : State} (h : s.Framed) : (rawSample s).Framed := by
  cases hd : s.st.dcsN with
  | false => rw [rawSample_conflict s hd]; exact h
  | true =>
    have hsampled : ∀ os, (s.sampled os).Framed := fun os => ((h.at_released hd).sampled os).framed_of_released
    rw [rawSample_eq s hd]
    split_ifs <;> exact hsampled _

theorem touchRawBody_goes {s : State} (h : s.Framed) : (touchRawBody s).Goes State.Framed := by
  have hraw := rawSample_framed h
  unfold touchRawBody
  generalize rawSample s = r at hraw ⊢
  cases r <;> exact hraw

theorem conversion8_at (cmd : Byte) {s : State} (h : s.At .released) : (conversion8 cmd s).2.At .released :=
  (h.touchXfer _).touchXfer _

theorem sampleAxis_at (cmd : Byte) {s : State} (h : s.At .released) : (sampleAxis cmd s).2.At .released :=
  (((((h.touchXfer _).touchXfer _).touchXfer _).touchXfer _).touchXfer _).touchXfer _

theorem touchStep_goes {conversion : State → U16 × State} {s : State} (h : s.Framed)
    (hconv : s.At .released → (conversion s).2.At .released) : (touchStep conversion s).Goes State.Framed := by
  unfold touchStep
  split
  · next hd => exact (hconv (h.at_released hd)).framed_of_released
  · exact fail_goes h _

/-! ### The calibrated read (R260 to R272) -/

theorem updateX_framed (tx ty : U16) {s : State} (h : s.Framed) : (updateX tx ty s).Framed := by
  obtain ⟨-, -, e⟩ | ⟨-, e⟩ := updateX_cases tx ty s <;> rw [e] <;> exact h

theorem updateY_framed (tx ty : U16) {s : State} (h : s.Framed) : (updateY tx ty s).Framed := by
  obtain ⟨-, -, e⟩ | ⟨-, e⟩ := updateY_cases tx ty s <;> rw [e] <;> exact h

theorem acceptReading_framed (p : Byte) (tx ty : U16) {s : State} (h : s.Framed) :
    (acceptReading p tx ty s).Framed := by
  have hpressure : State.Framed { s with st := { s.st with lastP := p } } := h
  exact updateY_framed tx ty (updateX_framed tx ty hpressure)

theorem touchReadBody_goes {s : State} (h : s.Framed) : (touchReadBody s).Goes State.Framed := by
  have hraw := rawSample_framed h
  unfold touchReadBody
  split
  · generalize rawSample s = r at hraw ⊢
    cases r with
    | conflict t => exact hraw
    | noTouch t => exact hraw
    | touch p tx ty t => exact acceptReading_framed p tx ty hraw
  · exact h

/-! ### Calibration (R231 to R246) -/

theorem fillAll_goes (l : List (Rect × U16)) {s : State} (h : s.Framed) : (fillAll l s).Goes State.Framed := by
  induction l generalizing s with
  | nil => exact h
  | cons q l ih => exact (fillRectBody_goes q.1 q.2 h).andThen fun _ ht => ih ht

theorem calibrateBody_goes (fg bg : U16) {s : State} (h : s.Framed) : (calibrateBody fg bg s).Goes State.Framed := by
  refine requireNoBracket_goes h fun _ => ?_
  have hturned : (setOrientationBody Orientation.deg0.byte
      { s with st := { s.st with calSaved := s.st.orient } }).Goes State.Framed := setOrientationBody_goes _ h
  refine Flow.Goes.map (P := State.Framed) ?_ fun _ ht => ht
  exact Flow.Goes.andThen (P := State.Framed) (hturned.map fun _ ht => ht) fun _ ht => fillAll_goes _ ht

theorem finishCal_goes {s : State} (h : s.Framed) : (finishCal s).Goes State.Framed := by
  have hturned : (setOrientationBody s.st.calSaved.byte { s with st := { s.st with calI := 3 } }).Goes State.Framed :=
    setOrientationBody_goes _ h
  refine hturned.map fun _ ht => ?_
  split <;> exact ht

theorem acceptPoint_goes (fg bg : U16) (i : Nat) (tx ty : U16) {s : State} (h : s.Framed) :
    (acceptPoint fg bg i tx ty s).Goes State.Framed := by
  have hack : (acknowledge (refPoint i) fg bg
      { s with st := { s.st with calT := s.st.calT.set i { x := tx, y := ty } } }).Goes State.Framed :=
    fillRectBody_goes _ _ h
  refine (hack.andThen fun _ ht => fillScreenBody_goes bg ht).andThen fun _ ht => ?_
  split
  · exact fillAll_goes _ ht
  · exact finishCal_goes ht

theorem pollBody_goes (fg bg : U16) {s : State} (h : s.Framed) : (pollBody fg bg s).Goes State.Framed := by
  have hraw := rawSample_framed h
  unfold pollBody
  generalize rawSample s = r at hraw ⊢
  cases r with
  | conflict t => exact hraw
  | noTouch t => exact hraw
  | touch p tx ty t => exact acceptPoint_goes _ _ _ _ _ hraw

/-! ### INIT and its program (R140, R330 to R335) -/

theorem initLines_at {s : State} (h : s.Framed) : (initLines s).At .released :=
  h.writeDcs_true.writeTcs_true.writeRst true

theorem initSerial_at (k : DivCode) {s : State} (h : s.At .released) : (initSerial k s).At .released := by
  have hdiv : State.At .released { s with st := { s.st with dispDiv := k } } := h
  exact (hdiv.writeDiv k).writeOrder .msbFirst

theorem resetPulse_at {s : State} (h : s.At .released) : (resetPulse s).At .released :=
  (((h.writeRst false).emit_wait _).writeRst true).emit_wait _

theorem initBody_goes (k : DivCode) {s : State} (h : s.Framed) : (initBody k s).Goes State.Framed := by
  have hfields : (initFields s).Framed := h
  have hopen := (resetPulse_at (initSerial_at k (initLines_at hfields))).writeDcs_false
  exact (word_goes hopen.framed_of_selected _ _).map fun _ ht => State.At.framed_of_selected ht

theorem initTailBody_goes {s : State} (h : s.Framed) : (initTailBody s).Goes State.Framed := by
  have hclosed : ((word false 0x29 s).map (State.writeDcs true)).Goes State.Framed :=
    (word_goes h _ _).map fun _ ht => ht.framed_of_selected.writeDcs_true.framed_of_released
  exact (hclosed.andThen fun _ ht => fillScreenBody_goes _ ht).map fun _ ht => ht

theorem runBytes_goes (dcx : Bool) (n : Nat) {s : State} (h : s.Framed) : (runBytes dcx n s).Goes State.Framed := by
  induction n generalizing s with
  | zero => exact h
  | succ n ih =>
    have hread : (readRom (fun b t => word dcx b t) s).Goes State.Framed := by
      unfold readRom
      split
      · exact (word_goes (s := { s with st := { s.st with ip := s.st.ip + 1 } }) h _ _).mono
          fun _ ht => ht.framed_of_selected
      · exact fail_goes h _
    exact hread.andThen fun _ ht => ih ht

/-! ### Operations and steps -/

theorem hostOp_framed {k : OpClass} {body : State → Flow} {s : State} (h : s.Framed)
    (hbody : (body s).Goes State.Framed) : (hostOp k body s).Framed := by
  obtain ⟨c, -, e⟩ | ⟨-, e⟩ | ⟨-, e⟩ | ⟨-, -, -, e⟩ := hostOp_cases k body s <;> rw [e]
  · exact h
  · exact h
  · exact h
  · exact hbody.final

theorem plainOp_framed {k : OpClass} {body : State → Flow} {s : State} (h : s.Framed)
    (hbody : (body s).Goes State.Framed) : (plainOp k body s).Framed :=
  hostOp_framed h (hbody.map fun _ ht => ht)

theorem stepOp_framed {body : State → Flow} {s : State} (h : s.Framed) (hbody : (body s).Goes State.Framed) :
    (stepOp body s).Framed := by
  unfold stepOp
  split
  · exact h
  · exact hbody.final

/-- Where the machine goes on, it goes on framed. -/
def AnswerFramed : Answer → Prop
  | .next s => s.Framed
  | .fault _ | .refused _ => True

/-- Every instruction keeps the framing law: a wire instruction by its one word, every other by its body. -/
theorem exec_framed (i : Instr) {s : State} (h : s.Framed) : AnswerFramed (exec i s) := by
  have hwire : ∀ w, encode i = .wire w → AnswerFramed (exec i s) := fun w hw => by
    rw [exec_of_encode_wire hw]
    exact stepOp_framed h ((word_goes h _ _).mono fun _ ht => ht.framed_of_selected)
  cases i with
  | endProgram => exact stepOp_framed h h
  | dataRun n => exact stepOp_framed h (runBytes_goes _ _ h)
  | cmdRun n => exact stepOp_framed h (runBytes_goes _ _ h)
  | reservedInit b => exact stepOp_framed h (fail_goes h _)
  | touchZ1 => exact stepOp_framed h (touchStep_goes h (conversion8_at _))
  | touchZ2 => exact stepOp_framed h (touchStep_goes h (conversion8_at _))
  | touchX => exact stepOp_framed h (touchStep_goes h (sampleAxis_at _))
  | touchY => exact stepOp_framed h (touchStep_goes h (sampleAxis_at _))
  | initBlock k => exact hostOp_framed h (initBody_goes k h)
  | beginTx => exact plainOp_framed h (beginBody_goes h)
  | endTx => exact plainOp_framed h (endBody_goes h)
  | sendCmd b => exact plainOp_framed h ((word_goes h _ _).mono fun _ ht => ht.framed_of_selected)
  | sendData b => exact plainOp_framed h ((word_goes h _ _).mono fun _ ht => ht.framed_of_selected)
  | sendData16 v => exact plainOp_framed h (words_goes_framed _ h)
  | setOrientation o => exact plainOp_framed h (setOrientationBody_goes o h)
  | setInverted inv => exact plainOp_framed h (setInvertedBody_goes inv h)
  | batchStart x y w hh => exact plainOp_framed h (batchStartBody_goes x y w hh h)
  | batchDraw c => exact plainOp_framed h (batchDrawBody_goes c h)
  | batchStop => exact plainOp_framed h (batchStopBody_goes h)
  | drawPixel x y c => exact plainOp_framed h (drawPixelBody_goes x y c h)
  | fillRect x y w hh c => exact plainOp_framed h (fillRectBody_goes _ c h)
  | fillScreen c => exact plainOp_framed h (fillScreenBody_goes c h)
  | touchRawRead => exact hostOp_framed h (touchRawBody_goes h)
  | touchCalibrate fg bg => exact hostOp_framed h (calibrateBody_goes fg bg h)
  | touchRead => exact hostOp_framed h (touchReadBody_goes h)
  | setBrightness pct => exact plainOp_framed h (fail_goes h _)
  | _ => exact hwire _ rfl

theorem rejectPacket_framed (e : DecodeError) {s : State} (h : s.Framed) : AnswerFramed (rejectPacket e s) := by
  cases e with
  | touchByteNotSent b => trivial
  | _ => exact hostOp_framed h (fail_goes h _)

theorem pollStep_framed (fg bg : U16) {s : State} (h : s.Framed) : AnswerFramed (pollStep fg bg s) := by
  unfold pollStep
  split
  · exact stepOp_framed h (pollBody_goes fg bg h)
  · trivial

/-- What is fetched runs in a framed state, or is a framed answer. -/
def Fetched.Framed : Fetched → Prop
  | .run _ s => s.Framed
  | .done a => AnswerFramed a

theorem fetchPacket_framed {s : State} (h : s.Framed) : (fetchPacket s).Framed := by
  unfold fetchPacket
  split
  · exact h
  · next p rest hp =>
    split
    · exact h
    · exact rejectPacket_framed (s := { s with issue := rest }) _ h

theorem fetchRom_framed {s : State} (h : s.Framed) : (fetchRom s).Framed := by
  unfold fetchRom
  split
  · exact h
  · exact stepOp_framed h (fail_goes h _)

theorem fetch_framed {s : State} (h : s.Framed) : (fetch s).Framed := by
  unfold fetch
  split
  · exact fetchPacket_framed h
  · exact fetchRom_framed h
  · exact stepOp_framed h (initTailBody_goes h)
  · exact pollStep_framed _ _ h

theorem step_framed {s : State} (h : s.Framed) : AnswerFramed (step s) := by
  have hfetched := fetch_framed h
  unfold step
  generalize fetch s = f at hfetched ⊢
  cases f with
  | run i t => exact exec_framed i hfetched
  | done a => exact hfetched

/-- Settles O10: what is fetched is framed, and every instruction and every step without one ends framed. -/
theorem stepKeepsFramingLaw : Obligations.StepKeepsFramingLaw := by
  intro s t h hstep
  have hframed := step_framed h
  rwa [hstep] at hframed

end Sys2Proof.Machine

/-! PROOFS about windows and batches (R160 to R163): what the controller makes of the window's words, and what the batch
operations answer in each of the places they may be called. -/

namespace Sys2Proof.Machine

/-! ### The window's words in the controller (R75, R102, R160) -/

/-- COLUMN with its two coordinates sets the columns, whatever the controller was receiving. -/
theorem Ctl.receive_column (c : Ctl) (v0 v1 : U16) : c.receive (rangeWords 0x2A v0 v1) =
    { c with cmd := some 0x2A, pcount := 4, pbuf := bytesOf v0 ++ bytesOf v1, hi := none, xs := v0, xe := v1 } := by
  simp [rangeWords, commandWords, bytesOf, Ctl.word, Ctl.command, Ctl.latchCommand,
    Ctl.dataWord, Ctl.columnData, Ctl.pushParam]

/-- PAGE with its two coordinates sets the rows, whatever the controller was receiving. -/
theorem Ctl.receive_page (c : Ctl) (v0 v1 : U16) : c.receive (rangeWords 0x2B v0 v1) =
    { c with cmd := some 0x2B, pcount := 4, pbuf := bytesOf v0 ++ bytesOf v1, hi := none, ys := v0, ye := v1 } := by
  simp [rangeWords, commandWords, bytesOf, Ctl.word, Ctl.command, Ctl.latchCommand,
    Ctl.dataWord, Ctl.pageData, Ctl.pushParam]

/-- The controller after SET_AREA's words: the window, and PAGE's words as the last command. -/
theorem Ctl.receive_area (c : Ctl) (x0 y0 x1 y1 : U16) : c.receive (areaWords x0 y0 x1 y1) =
    { c with
      cmd := some 0x2B, pcount := 4, pbuf := bytesOf y0 ++ bytesOf y1, hi := none
      xs := x0, xe := x1, ys := y0, ye := y1 } := by
  rw [areaWords, Ctl.receive_append, Ctl.receive_column, Ctl.receive_page]

/-- A word leaves the chip-select as it is. -/
theorem Block.afterWord_with_dcsN {b : Block} {v : Bool} (h : b.dcsN = v) (dcx : Bool) :
    { b.afterWord dcx with dcsN := v } = b.afterWord dcx := by
  subst h; rfl

/-- Settles O20: the record and the block are those of `setArea_go`, the window that of `Ctl.receive_area`. -/
theorem setAreaSetsWindow : Obligations.SetAreaSetsWindow := by
  intro x0 y0 x1 y1 s hd
  refine ⟨_, setArea_go x0 y0 x1 y1 s, ?_, State.wire_after .., ?_⟩
  · rw [State.after_st, Block.afterWord_with_dcsN hd, Block.afterWord]
  · rw [State.after_ctl, Ctl.receive_area]
    exact ⟨rfl, rfl, rfl, rfl, rfl, rfl⟩

/-! ### BATCH_START, BATCH_DRAW, BATCH_STOP (R161 to R163) -/

theorem rangeOk_iff {v n : U16} : rangeOk v n = true ↔ n ≠ 0 ∧ v.toNat + n.toNat - 1 ≤ 0xFFFF := by
  simp [rangeOk]

/-- `REQUIRE_NO_BRACKET` with the display released lets the body run. -/
theorem requireNoBracket_go {body : State → Flow} {s : State} (hd : s.st.dcsN = true) :
    requireNoBracket body s = body s := if_pos hd

/-- `REQUIRE_NO_BRACKET` inside a bracket: the fault, before anything is done. -/
theorem requireNoBracket_stop {body : State → Flow} {s : State} (hd : s.st.dcsN = false) :
    requireNoBracket body s = .stop (s.raise .bracket) := by
  simp [requireNoBracket, hd, fail]

/-- An operation that needs the display released faults in a ready block with a bracket open. -/
theorem plainOp_bracket (body : State → Flow) {s : State} (hs : s.Ready) (hd : s.st.dcsN = false) :
    plainOp .plain (requireNoBracket body) s = s.raise .bracket :=
  plainOp_stop hs (requireNoBracket_stop hd)

/-- BATCH_START from a ready block with the display released and a legal window. -/
theorem exec_batchStart_go {x y w h : U16} {s : State} (hs : s.Ready) (hd : s.st.dcsN = true)
    (hx : rangeOk x w = true) (hy : rangeOk y h = true) :
    exec (.batchStart x y w h) s = .next ((s.after
      (areaEvents x y (rangeEnd x w) (rangeEnd y h) ++ [.ev (.csd false), .w9 false 0x2C])
      { s.st.afterWord false with dcsN := false, inBatch := true }
      (s.ctl.receive (areaWords x y (rangeEnd x w) (rangeEnd y h) ++ [(false, 0x2C)]))).setResult .ok) :=
  congrArg Host.Outcome.next (plainOp_go hs (batchStartBody_go x y w h s hd hx hy))

/-- Settles O21: a legal window is one with both ranges legal, and each clause is one way out of the prelude or the
body. -/
theorem batchStartOpensBatch : Obligations.BatchStartOpensBatch := by
  intro x y w h s hfault hinit
  refine ⟨fun hbatch hd hw hh hx hy => ?_, fun hbatch hd hbad => ?_, fun hbatch hd => ?_, fun hbatch => ?_⟩
  · exact exec_batchStart_go ⟨hfault, hinit, hbatch⟩ hd (rangeOk_iff.mpr ⟨hw, hx⟩) (rangeOk_iff.mpr ⟨hh, hy⟩)
  · have hrange : (rangeOk x w && rangeOk y h) = false := by
      rw [← Bool.not_eq_true, Bool.and_eq_true, rangeOk_iff, rangeOk_iff]
      rintro ⟨⟨hw, hx⟩, hh, hy⟩
      obtain h0 | h0 | hover | hover := hbad
      · exact hw h0
      · exact hh h0
      · omega
      · omega
    exact congrArg Host.Outcome.next
      (plainOp_stop ⟨hfault, hinit, hbatch⟩ (batchStartBody_badOperand x y w h s hd hrange))
  · exact congrArg Host.Outcome.next (plainOp_bracket _ ⟨hfault, hinit, hbatch⟩ hd)
  · exact congrArg Host.Outcome.next (plainOp_inBatch _ hfault hinit hbatch)

/-- In an open batch a batch operation whose body goes through answers OK. -/
theorem plainOp_batch_go {body : State → Flow} {s t : State} (hs : s.InBatch) (hbody : body s = .go t) :
    plainOp .batch body s = t.setResult .ok := by
  obtain ⟨hfault, hinit, -, -⟩ := hs
  rw [plainOp, hostOp_admitted _ _ _ hfault (.inr hinit) (.inl rfl), hbody, Flow.map_go, Flow.final_go]

theorem exec_batchDraw_go {s : State} (hs : s.InBatch) (c : U16) :
    exec (.batchDraw c) s = .next ((s.after (asEvents (dataWords16 c)) (s.st.afterWord true)
      (s.ctl.receive (dataWords16 c))).setResult .ok) := by
  have ⟨_, _, hbatch, hd⟩ := hs
  exact congrArg Host.Outcome.next (plainOp_batch_go hs (batchDrawBody_go c s hbatch hd))

theorem exec_batchStop_go {s : State} (hs : s.InBatch) :
    exec .batchStop s = .next ((s.after [.ev (.csd true)] { s.st with dcsN := true, inBatch := false }
      s.ctl).setResult .ok) := by
  have ⟨_, _, hbatch, _⟩ := hs
  exact congrArg Host.Outcome.next (plainOp_batch_go hs (batchStopBody_go s hbatch))

theorem batchDrawBody_stop (c : U16) {s : State} (hbatch : s.st.inBatch = false) :
    batchDrawBody c s = .stop (s.raise .batch) := by
  simp [batchDrawBody, hbatch, fail]

theorem batchStopBody_stop {s : State} (hbatch : s.st.inBatch = false) :
    batchStopBody s = .stop (s.raise .batch) := by
  simp [batchStopBody, hbatch, fail]

/-- Settles O22: in a batch both bodies go through; in a ready block, which is in none, both fault. -/
theorem batchDrawAndStop : Obligations.BatchDrawAndStop := by
  refine fun s => ⟨fun hs => ⟨exec_batchDraw_go hs, exec_batchStop_go hs⟩, fun hs => ?_⟩
  have ⟨_, _, hbatch⟩ := hs
  exact ⟨fun c => congrArg Host.Outcome.next (plainOp_stop hs (batchDrawBody_stop c hbatch)),
    congrArg Host.Outcome.next (plainOp_stop hs (batchStopBody_stop hbatch))⟩

end Sys2Proof.Machine

/-! PROOF of the batch fill law (R171). A batch's pixels come to the controller one by one; between two of them the
cursor stands at the next cell of the window, row by row (R77), and the cells of a window are distinct positions of the
display memory, since `PHYS_MAP` is a bijection. -/

namespace Sys2Proof.Machine

/-! ### The cells of a window -/

/-- The physical position of the k-th cell of a window, row by row, under MADCTL byte `m`. -/
def windowCell (m : Byte) (r : Rect) (k : Nat) : Option Nat :=
  physCell m (r.x.toNat + k % r.w.toNat) (r.y.toNat + k / r.w.toNat)

/-- Distinct logical positions have distinct physical ones. -/
theorem physCell_injective {m : Byte} {x y x' y' j : Nat} (h : physCell m x y = some j)
    (h' : physCell m x' y' = some j) : x = x' ∧ y = y' := by
  unfold physCell at h h'
  split at h <;> simp only [Option.some.injEq, reduceCtorEq] at h
  split at h' <;> simp only [Option.some.injEq, reduceCtorEq] at h'
  next hin hin' =>
    have hindex := (Config.physMap m).injective (Fin.val_injective (h.trans h'.symm))
    have hflat : x + y * panelWidth m = x' + y' * panelWidth m := by simpa [add_comm] using hindex
    have hcol : x = x' := by
      simpa [Nat.mod_eq_of_lt hin.1, Nat.mod_eq_of_lt hin'.1] using congrArg (· % panelWidth m) hflat
    subst hcol
    exact ⟨rfl, Nat.eq_of_mul_eq_mul_right (by omega) (Nat.add_left_cancel hflat)⟩

theorem windowCell_injective {m : Byte} {r : Rect} {k l j : Nat} (hk : windowCell m r k = some j)
    (hl : windowCell m r l = some j) : k = l := by
  obtain ⟨hcol, hrow⟩ := physCell_injective hk hl
  exact Nat.ext_div_mod (Nat.add_left_cancel hrow) (Nat.add_left_cancel hcol)

/-! ### The display memory filled in part -/

/-- The memory `g` is `g₀` with the colours `cs` written to the first cells of the window, in order. -/
def Gram.Filled (m : Byte) (r : Rect) (cs : List U16) (g₀ g : Gram) : Prop :=
  (∀ k c, cs[k]? = some c → ∃ j, windowCell m r k = some j ∧ g.read j = some c) ∧
    ∀ j, (∀ k, k < cs.length → windowCell m r k ≠ some j) → g.read j = g₀.read j

theorem Gram.Filled.nil (m : Byte) (r : Rect) (g : Gram) : Gram.Filled m r [] g g :=
  ⟨fun _ _ h => by simp at h, fun _ _ => rfl⟩

/-- One colour more, written to the next cell: the cells before it keep theirs, being other positions. -/
theorem Gram.Filled.concat {m : Byte} {r : Rect} {cs : List U16} {g₀ g : Gram} (h : Gram.Filled m r cs g₀ g)
    {j : Nat} (hj : windowCell m r cs.length = some j) (p : U16) :
    Gram.Filled m r (cs ++ [p]) g₀ (g.write j p) := by
  obtain ⟨hwritten, hkept⟩ := h
  refine ⟨fun k c hk => ?_, fun i hi => ?_⟩
  · obtain hlt | rfl | hgt := lt_trichotomy k cs.length
    · rw [List.getElem?_append_left hlt] at hk
      obtain ⟨i, hi, hread⟩ := hwritten k c hk
      have hne : i ≠ j := fun hij => hlt.ne (windowCell_injective hi (hij ▸ hj))
      exact ⟨i, hi, (Gram.read_write_other _ _ hne).trans hread⟩
    · rw [List.getElem?_concat_length, Option.some.injEq] at hk
      exact ⟨j, hj, hk ▸ Gram.read_write_same ..⟩
    · rw [List.getElem?_eq_none (by simp; omega)] at hk
      cases hk
  · have hne : i ≠ j := fun hij => hi cs.length (by simp) (hij ▸ hj)
    rw [Gram.read_write_other _ _ hne]
    exact hkept i fun k hk => hi k (by simp; omega)

/-! ### The controller between two pixels of a batch -/

/-- A window that is not empty, inside the logical screen of MADCTL byte `m`. -/
structure WindowInside (m : Byte) (r : Rect) : Prop where
  width : 0 < r.w.toNat
  height : 0 < r.h.toNat
  right : r.x.toNat + r.w.toNat ≤ panelWidth m
  bottom : r.y.toNat + r.h.toNat ≤ panelHeight m

/-- The controller has the window `r` and `n` pixels of it: between two pixels, the cursor at the next cell. After the
last cell the cursor has wrapped and no claim is made of it. -/
structure Ctl.Drawing (m : Byte) (r : Rect) (n : Nat) (c : Ctl) : Prop where
  cmd : c.cmd = some 0x2C
  hi : c.hi = none
  madctl : c.madctl = some m
  xs : c.xs.toNat = r.x.toNat
  xe : c.xe.toNat = r.x.toNat + r.w.toNat - 1
  ys : c.ys.toNat = r.y.toNat
  ye : c.ye.toNat = r.y.toNat + r.h.toNat - 1
  cursor : n < r.w.toNat * r.h.toNat →
    c.cx.toNat = r.x.toNat + n % r.w.toNat ∧ c.cy.toNat = r.y.toNat + n / r.w.toNat

/-- The held byte takes no part in a pixel write or an advance. -/
theorem Ctl.gramWrite_advance_with_hi (c : Ctl) (hi : Option Byte) (p : U16) :
    (Ctl.gramWrite { c with hi := hi } p).advance = { (c.gramWrite p).advance with hi := hi } := by
  have htarget : Ctl.target { c with hi := hi } = c.target := rfl
  unfold Ctl.gramWrite Ctl.advance
  rw [htarget]
  cases c.target <;> dsimp only <;> split_ifs <;> rfl

/-- A pixel's two data words between two pixels: a write at the cursor, then the advance (R76, R77). -/
theorem Ctl.receive_pixel {c : Ctl} (hcmd : c.cmd = some 0x2C) (hhi : c.hi = none) (p : U16) :
    c.receive (dataWords16 p) = (c.gramWrite p).advance := by
  have hfirst : c.dataWord (hiByte p) = { c with hi := some (hiByte p) } :=
    (Ctl.dataWord_write _ hcmd).trans (Ctl.pixelData_first _ hhi)
  have hsecond := Ctl.pixelData_second (c := { c with hi := some (hiByte p) }) (loByte p) rfl
  rw [joinBytes_hi_lo, Ctl.gramWrite_advance_with_hi] at hsecond
  have hnone : { (c.gramWrite p).advance with hi := none } = (c.gramWrite p).advance := by
    rw [Ctl.gramWrite_advance_frame, ← hhi]
  calc c.receive (dataWords16 p) = (c.dataWord (hiByte p)).dataWord (loByte p) := rfl
    _ = Ctl.pixelData { c with hi := some (hiByte p) } (loByte p) := by
      rw [hfirst]
      exact Ctl.dataWord_write _ hcmd
    _ = (c.gramWrite p).advance := hsecond.trans hnone

/-- The next cell is the one to the right, or the first of the next row. -/
theorem next_cell {w : Nat} (hw : 0 < w) (n : Nat) :
    (n % w + 1 < w → (n + 1) % w = n % w + 1 ∧ (n + 1) / w = n / w) ∧
    (n % w + 1 = w → (n + 1) % w = 0 ∧ (n + 1) / w = n / w + 1) := by
  have hn := Nat.mod_add_div n w
  refine ⟨fun h => ?_, fun h => ?_⟩
  · exact ((Nat.div_mod_unique hw).mpr ⟨by omega, h⟩).symm
  · exact ((Nat.div_mod_unique hw).mpr ⟨by rw [Nat.mul_add]; omega, hw⟩).symm

theorem pixelWords_concat (cs : List U16) (p : U16) : pixelWords (cs ++ [p]) = pixelWords cs ++ dataWords16 p := by
  simp [pixelWords]

/-- A batch's words are those of BATCH_START, a batch with no pixel yet, then its pixels. -/
theorem batchWords_eq_append (r : Rect) (cs : List U16) : batchWords r cs = batchWords r [] ++ pixelWords cs := by
  simp [batchWords, pixelWords]

section Window

variable {m : Byte} {r : Rect} {n : Nat} {c : Ctl}

theorem Ctl.Drawing.windowOk (h : c.Drawing m r n) (hr : WindowInside m r) : c.windowOk m = true := by
  have ⟨hw, hh, hright, hbottom⟩ := hr
  simp only [Ctl.windowOk, decide_eq_true_eq, h.xs, h.xe, h.ys, h.ye]
  omega

/-- Between two pixels a pixel write reaches the next cell of the window. -/
theorem Ctl.Drawing.target (h : c.Drawing m r n) (hr : WindowInside m r) (hm : isOrientationMadctl m = true)
    (hn : n < r.w.toNat * r.h.toNat) : ∃ j, windowCell m r n = some j ∧ c.target = some j := by
  obtain ⟨hcx, hcy⟩ := h.cursor hn
  have ⟨hw, _, hright, hbottom⟩ := hr
  have hcol := Nat.mod_lt n hw
  have hrow := Nat.div_lt_of_lt_mul hn
  obtain ⟨j, hj⟩ : ∃ j, windowCell m r n = some j := physCell_of_lt (by omega) (by omega)
  refine ⟨j, hj, ?_⟩
  rw [Ctl.target_in_contract h.madctl hm (h.windowOk hr), hcx, hcy]
  exact hj

/-- The advance takes the cursor to the cell after, until the window is full (R77). -/
theorem Ctl.Drawing.advance_cursor (h : c.Drawing m r n) (hr : WindowInside m r) (hn : n + 1 < r.w.toNat * r.h.toNat) :
    c.advance.cx.toNat = r.x.toNat + (n + 1) % r.w.toNat ∧
      c.advance.cy.toNat = r.y.toNat + (n + 1) / r.w.toNat := by
  obtain ⟨hcx, hcy⟩ := h.cursor (by omega)
  have hcol := Nat.mod_lt n hr.width
  have hrow := Nat.div_lt_of_lt_mul hn
  obtain ⟨hinside, hwrap⟩ := next_cell hr.width n
  rw [Ctl.advance_cx_toNat, Ctl.advance_cy_toNat, h.xs, h.xe, h.ys, h.ye, hcx, hcy]
  obtain hlt | heq : n % r.w.toNat + 1 < r.w.toNat ∨ n % r.w.toNat + 1 = r.w.toNat := by omega
  · obtain ⟨hmod, hdiv⟩ := hinside hlt
    rw [if_neg (by omega), if_neg (by omega)]
    omega
  · obtain ⟨hmod, hdiv⟩ := hwrap heq
    rw [if_pos (by omega), if_pos (by omega), if_neg (by omega)]
    omega

/-- One pixel of a batch: the next cell written, nothing else of the memory. -/
theorem Ctl.Drawing.receive_pixel (h : c.Drawing m r n) (hr : WindowInside m r) (hm : isOrientationMadctl m = true)
    (hn : n < r.w.toNat * r.h.toNat) (p : U16) :
    (c.receive (dataWords16 p)).Drawing m r (n + 1) ∧
      ∃ j, windowCell m r n = some j ∧ (c.receive (dataWords16 p)).gram = c.gram.write j p := by
  obtain ⟨j, hj, htarget⟩ := h.target hr hm hn
  rw [Ctl.receive_pixel h.cmd h.hi, Ctl.gramWrite_advance_frame, Ctl.gramWrite_gram_of_target p htarget]
  exact ⟨⟨h.cmd, h.hi, h.madctl, h.xs, h.xe, h.ys, h.ye, h.advance_cursor hr⟩, j, hj, rfl⟩

/-- The pixels of a batch, from its first: each in its cell, and the rest of the memory kept. -/
theorem Ctl.Drawing.receive_pixels (h : c.Drawing m r 0) (hr : WindowInside m r) (hm : isOrientationMadctl m = true)
    (cs : List U16) (hcs : cs.length ≤ r.w.toNat * r.h.toNat) :
    (c.receive (pixelWords cs)).Drawing m r cs.length ∧
      Gram.Filled m r cs c.gram (c.receive (pixelWords cs)).gram := by
  induction cs using List.reverseRecOn with
  | nil => exact ⟨h, Gram.Filled.nil m r c.gram⟩
  | append_singleton cs p ih =>
    rw [List.length_append, List.length_singleton] at hcs
    obtain ⟨hdrawing, hfilled⟩ := ih (by omega)
    obtain ⟨hnext, j, hj, hgram⟩ := hdrawing.receive_pixel hr hm (by omega) p
    rw [pixelWords_concat, Ctl.receive_append, hgram, List.length_append]
    exact ⟨hnext, hfilled.concat hj p⟩

theorem rangeEnd_toNat {v n : U16} (hn : 0 < n.toNat) (h : v.toNat + n.toNat ≤ 0xFFFF) :
    (rangeEnd v n).toNat = v.toNat + n.toNat - 1 := by
  unfold rangeEnd; bv_omega

theorem panelWidth_le (m : Byte) : panelWidth m ≤ 320 := by
  unfold panelWidth; split <;> decide

theorem panelHeight_le (m : Byte) : panelHeight m ≤ 320 := by
  unfold panelHeight; split <;> decide

/-- BATCH_START's words leave the cursor at the first cell of the window and the memory as it was (R74, R160,
R161). -/
theorem Ctl.receive_batchStart (hr : WindowInside m r) (hm : c.madctl = some m) :
    (c.receive (batchWords r [])).Drawing m r 0 ∧ (c.receive (batchWords r [])).gram = c.gram := by
  have ⟨hw, hh, hright, hbottom⟩ := hr
  have hwidth := panelWidth_le m
  have hheight := panelHeight_le m
  have hxe := rangeEnd_toNat hw (by omega : r.x.toNat + _ ≤ _)
  have hye := rangeEnd_toNat hh (by omega : r.y.toNat + _ ≤ _)
  rw [batchWords, Ctl.receive_append, Ctl.receive_area]
  exact ⟨⟨rfl, rfl, hm, rfl, hxe, rfl, hye, fun _ => by simp [pixelWords, Ctl.word, Ctl.command]⟩, rfl⟩

/-- A whole batch over a window inside the screen fills it from its first cell on. -/
theorem Ctl.receive_batchWords_filled (hr : WindowInside m r) (hm : isOrientationMadctl m = true)
    (hmadctl : c.madctl = some m) (cs : List U16) (hcs : cs.length ≤ r.w.toNat * r.h.toNat) :
    Gram.Filled m r cs c.gram (c.receive (batchWords r cs)).gram := by
  obtain ⟨hstart, hgram⟩ := Ctl.receive_batchStart hr hmadctl
  obtain ⟨-, hfilled⟩ := hstart.receive_pixels hr hm cs hcs
  rwa [batchWords_eq_append, Ctl.receive_append, ← hgram]

end Window

/-! ### The run -/

theorem runAll_cons {i : Instr} {is : List Instr} {s t : State} (h : exec i s = .next t) :
    runAll (i :: is) s = runAll is t := by
  rw [runAll, h]

/-- Draws in an open batch leave it open, and the controller has received their pixels. -/
theorem runAll_draws (cs : List U16) (is : List Instr) {s : State} (hs : s.InBatch) :
    ∃ t, runAll (cs.map Instr.batchDraw ++ is) s = runAll is t ∧ t.InBatch ∧ t.ctl = s.ctl.receive (pixelWords cs) := by
  induction cs generalizing s with
  | nil => exact ⟨s, rfl, hs, rfl⟩
  | cons c cs ih =>
    have hdraw := exec_batchDraw_go hs c
    obtain ⟨t, hrun, ht, hctl⟩ := ih (s := (s.after (asEvents (dataWords16 c)) (s.st.afterWord true)
      (s.ctl.receive (dataWords16 c))).setResult .ok) hs
    exact ⟨t, (runAll_cons hdraw).trans hrun, ht, hctl.trans (Ctl.receive_append ..).symm⟩

/-- BATCH_START, draws and BATCH_STOP complete, and the controller has received the batch's words. -/
theorem runAll_batch (r : Rect) (cs : List U16) {s : State} (hs : s.Ready) (hd : s.st.dcsN = true)
    (hx : rangeOk r.x r.w = true) (hy : rangeOk r.y r.h = true) :
    ∃ t, runAll (.batchStart r.x r.y r.w r.h :: (cs.map Instr.batchDraw ++ [.batchStop])) s = .next t ∧
      t.ctl = s.ctl.receive (batchWords r cs) := by
  have ⟨hfault, hinit, _⟩ := hs
  obtain ⟨u, hstart, hu, huctl⟩ : ∃ u, exec (.batchStart r.x r.y r.w r.h) s = .next u ∧ u.InBatch ∧
      u.ctl = s.ctl.receive (batchWords r []) := ⟨_, exec_batchStart_go hs hd hx hy, ⟨hfault, hinit, rfl, rfl⟩, rfl⟩
  obtain ⟨t, hdraws, ht, htctl⟩ := runAll_draws cs [.batchStop] hu
  refine ⟨_, ((runAll_cons hstart).trans hdraws).trans (runAll_cons (exec_batchStop_go ht)), ?_⟩
  rw [batchWords_eq_append, Ctl.receive_append, ← huctl]
  exact htctl

/-! ### The law -/

theorem isOrientationMadctl_orientMadctl (o : Orientation) : isOrientationMadctl (orientMadctl o.byte) = true := by
  cases o <;> rfl

theorem panelWidth_orientMadctl (o : Orientation) : panelWidth (orientMadctl o.byte) = (orientWidth o.byte).toNat := by
  cases o <;> rfl

theorem panelHeight_orientMadctl (o : Orientation) :
    panelHeight (orientMadctl o.byte) = (orientHeight o.byte).toNat := by
  cases o <;> rfl

/-- Settles O23: the run hands the controller the window and the pixels, which start at the window's first cell and fill
it in order. -/
theorem batchFillLaw : Obligations.BatchFillLaw := by
  intro x y w h cs s hs hd hdims hmadctl hw hh hright hbottom hcs
  obtain ⟨hwidth, hheight⟩ := hdims
  have hinside : WindowInside (orientMadctl s.st.orient.byte) ⟨x, y, w, h⟩ :=
    ⟨by bv_omega, by bv_omega, by rwa [panelWidth_orientMadctl, ← hwidth],
      by rwa [panelHeight_orientMadctl, ← hheight]⟩
  have hx : rangeOk x w = true := rangeOk_iff.mpr ⟨hw, by omega⟩
  have hy : rangeOk y h = true := rangeOk_iff.mpr ⟨hh, by omega⟩
  obtain ⟨t, hrun, hctl⟩ := runAll_batch ⟨x, y, w, h⟩ cs hs hd hx hy
  have hfilled := Ctl.receive_batchWords_filled hinside (isOrientationMadctl_orientMadctl _) hmadctl cs hcs.le
  rw [← hctl] at hfilled
  exact ⟨t, hrun, hfilled⟩

end Sys2Proof.Machine

/-! PROOFS about pixels, rectangles and the screen (R164 to R167, R172). The whole state after each is in the laws; what
is left is the prelude, the clamp's arithmetic, and that the dimensions of an orientation are not zero. -/

namespace Sys2Proof.Machine

/-! ### DRAW_PIXEL (R164) -/

theorem drawPixelBody_offScreen {x y c : U16} {s : State} (hd : s.st.dcsN = true)
    (hout : s.st.width.toNat ≤ x.toNat ∨ s.st.height.toNat ≤ y.toNat) : drawPixelBody x y c s = .go s := by
  rw [drawPixelBody, requireNoBracket_go hd, if_pos hout]

theorem rangeOk_one (v : U16) : rangeOk v 1 = true :=
  rangeOk_iff.mpr ⟨by decide, by simpa using Nat.le_of_lt_succ v.isLt⟩

theorem rangeEnd_one (v : U16) : rangeEnd v 1 = v := BitVec.add_sub_cancel v 1

/-- DRAW_PIXEL on the screen: a batch over the one pixel. -/
theorem drawPixelBody_onScreen {x y c : U16} {s : State} (hd : s.st.dcsN = true)
    (hx : x.toNat < s.st.width.toNat) (hy : y.toNat < s.st.height.toNat) :
    drawPixelBody x y c s = .go (s.batched ⟨x, y, 1, 1⟩ [c]) := by
  rw [drawPixelBody, requireNoBracket_go hd, if_neg (by omega),
    solidBatch_go _ _ _ _ hd (rangeOk_one x) (rangeOk_one y)]
  rfl

theorem exec_drawPixel_onScreen {x y c : U16} {s : State} (hs : s.Ready) (hd : s.st.dcsN = true)
    (hx : x.toNat < s.st.width.toNat) (hy : y.toNat < s.st.height.toNat) :
    exec (.drawPixel x y c) s = .next ((s.batched ⟨x, y, 1, 1⟩ [c]).setResult .ok) :=
  congrArg Host.Outcome.next (plainOp_go hs (drawPixelBody_onScreen hd hx hy))

/-- The words of a batch over one pixel. -/
theorem batchWords_one (x y c : U16) : batchWords ⟨x, y, 1, 1⟩ [c] =
    areaWords x y x y ++ [(false, 0x2C), (true, hiByte c), (true, loByte c)] := by
  rw [batchWords, rangeEnd_one, rangeEnd_one]
  rfl

/-- The events of a batch over one pixel. -/
theorem batchEvents_one (x y c : U16) : batchEvents ⟨x, y, 1, 1⟩ [c] =
    areaEvents x y x y ++ [.ev (.csd false), .w9 false 0x2C, .w9 true (hiByte c), .w9 true (loByte c),
      .ev (.csd true)] := by
  rw [batchEvents, rangeEnd_one, rangeEnd_one]
  rfl

/-- Words leave the batch flag as it is. -/
theorem Block.afterWord_with_inBatch {b : Block} {v : Bool} (h : b.inBatch = v) (dcx dcsN : Bool) :
    { b.afterWord dcx with dcsN := dcsN, inBatch := v } = { b.afterWord dcx with dcsN := dcsN } := by
  subst h; rfl

/-- Settles O24: off the screen the body does nothing, on it it is `solidBatch` of one pixel. -/
theorem drawPixelClipsOrDraws : Obligations.DrawPixelClipsOrDraws := by
  intro x y c s hs
  refine ⟨fun hd hout => ?_, fun hd hx hy => ?_, fun hd => congrArg Host.Outcome.next (plainOp_bracket _ hs hd)⟩
  · exact congrArg Host.Outcome.next (plainOp_go hs (drawPixelBody_offScreen hd hout))
  · have ⟨_, _, hbatch⟩ := hs
    rw [exec_drawPixel_onScreen hs hd hx hy, State.batched, batchWords_one, batchEvents_one,
      Block.afterWord_with_inBatch hbatch]

/-! ### CLAMP_RECT (R165, R172) -/

theorem clampStart_eq_min {dim : Nat} (h : 0 < dim) (v : Nat) : clampStart dim v = min v (dim - 1) := by
  unfold clampStart; split <;> omega

/-- The clamped size ends the range inside the dimension where the corner is inside it. -/
theorem add_clampSize_le {dim v : Nat} (h : v < dim) (n : Nat) : v + clampSize dim v n ≤ dim := by
  unfold clampSize; split <;> omega

/-- One axis of CLAMP_RECT, in exact arithmetic. -/
theorem clamp_axis (dim v n : U16) (h : dim ≠ 0) :
    let start := BitVec.ofNat 16 (clampStart dim.toNat v.toNat)
    let size := BitVec.ofNat 16 (clampSize dim.toNat (clampStart dim.toNat v.toNat) n.toNat)
    start.toNat = min v.toNat (dim.toNat - 1) ∧
    size.toNat = clampSize dim.toNat (min v.toNat (dim.toNat - 1)) n.toNat ∧
    start.toNat < dim.toNat ∧ start.toNat + size.toNat ≤ dim.toNat := by
  intro start size
  have hpos : 0 < dim.toNat := by bv_omega
  have hlt : min v.toNat (dim.toNat - 1) < dim.toNat := by omega
  have hle := add_clampSize_le hlt n.toNat
  have hstart : start.toNat = min v.toNat (dim.toNat - 1) := by
    simp only [start, clampStart_eq_min hpos, BitVec.toNat_ofNat]; omega
  have hsize : size.toNat = clampSize dim.toNat (min v.toNat (dim.toNat - 1)) n.toNat := by
    simp only [size, clampStart_eq_min hpos, BitVec.toNat_ofNat]; omega
  exact ⟨hstart, hsize, by omega, by omega⟩

/-- Settles O25: the two axes are clamped alike, so each half is `clamp_axis`. -/
theorem clampRectLaw : Obligations.ClampRectLaw := by
  intro width height r hw hh
  obtain ⟨hx, hxw, hxlt, hxle⟩ := clamp_axis width r.x r.w hw
  obtain ⟨hy, hyh, hylt, hyle⟩ := clamp_axis height r.y r.h hh
  exact ⟨hx, hy, hxw, hyh, hxlt, hylt, hxle, hyle⟩

/-! ### FILL_RECT and FILL_SCREEN (R166, R167) -/

/-- The logical screen has 76 800 pixels in either orientation. -/
theorem Block.DimsAgree.pixelCount {b : Block} (h : b.DimsAgree) : b.width.toNat * b.height.toNat = 76800 := by
  obtain ⟨hw, hh⟩ := h
  rw [hw, hh]
  cases b.orient <;> rfl

/-- With the display released and the dimensions those of the orientation, the screen can be drawn on. -/
theorem State.drawable_of_dimsAgree {s : State} (hd : s.st.dcsN = true) (h : s.st.DimsAgree) : s.Drawable := by
  have hpos : 0 < s.st.width.toNat * s.st.height.toNat := by rw [h.pixelCount]; decide
  exact ⟨hd, Nat.pos_of_mul_pos_right hpos, Nat.pos_of_mul_pos_left hpos⟩

/-- FILL_RECT with no bracket open answers OK whatever its operands. -/
theorem exec_fillRect_filled (x y w h c : U16) {s : State} (hs : s.Ready) (hdraw : s.Drawable) :
    exec (.fillRect x y w h c) s = .next ((s.filledRect ⟨x, y, w, h⟩ c).setResult .ok) :=
  congrArg Host.Outcome.next (plainOp_go hs (fillRectBody_filled _ c s hdraw))

/-- Settles O26: FILL_RECT leaves `State.filledRect`, which is the state as it was where the clamped rectangle is empty
and the batch over it where it is not. -/
theorem fillRectFillsClampedRect : Obligations.FillRectFillsClampedRect := by
  intro x y w h c s hs hdims
  refine ⟨fun hd hempty => ?_, fun hd hw hh => ?_, fun hd => congrArg Host.Outcome.next (plainOp_bracket _ hs hd)⟩
  · rw [exec_fillRect_filled x y w h c hs (State.drawable_of_dimsAgree hd hdims), State.filledRect, if_pos hempty]
  · rw [exec_fillRect_filled x y w h c hs (State.drawable_of_dimsAgree hd hdims), State.filledRect,
      if_neg (not_or.mpr ⟨hw, hh⟩)]

/-- Settles O27: FILL_SCREEN leaves `State.filledScreen`, the batch over the whole screen. -/
theorem fillScreenFillsPanel : Obligations.FillScreenFillsPanel := by
  intro c s hs hdims
  refine ⟨hdims.pixelCount, fun hd => ?_, fun hd => congrArg Host.Outcome.next (plainOp_bracket _ hs hd)⟩
  exact congrArg Host.Outcome.next
    (plainOp_go hs (fillScreenBody_filled c s (State.drawable_of_dimsAgree hd hdims)))

end Sys2Proof.Machine

/-! PROOFS about orientation, inversion and brightness (R168 to R170, R173). -/

namespace Sys2Proof.Machine

/-! ### SET_ORIENTATION (R168, R173) -/

/-- SET_ORIENTATION of a legal value with no bracket open. -/
theorem exec_setOrientation_go (o : Orientation) {s : State} (hs : s.Ready) (hd : s.st.dcsN = true) :
    exec (.setOrientation o.byte) s = .next ((s.oriented o).setResult .ok) :=
  congrArg Host.Outcome.next (plainOp_go hs (setOrientationBody_go o s hd))

/-- Every byte but the four is reserved (R100). -/
theorem Orientation.ofByte_reserved {v : Byte} (h0 : v ≠ 0xE8) (h90 : v ≠ 0x49) (h180 : v ≠ 0x38) (h270 : v ≠ 0x89) :
    Orientation.ofByte v = none := by
  unfold Orientation.ofByte
  split
  case h_5 => rfl
  all_goals contradiction

theorem setOrientationBody_reserved {v : Byte} {s : State} (hd : s.st.dcsN = true)
    (hv : Orientation.ofByte v = none) : setOrientationBody v s = .stop (s.raise .badOperand) := by
  rw [setOrientationBody, requireNoBracket_go hd, hv, fail]

/-- The table of R168 gives the byte, the dimensions and the MADCTL byte that the model computes. -/
theorem orientation_of_table {v : Byte} {o : Orientation} {width height : U16} {madctl : Byte}
    (h : (v, o, width, height, madctl) ∈
      ([(0xE8, .deg0, 320, 240, 0xE8), (0x49, .deg90, 240, 320, 0x48), (0x38, .deg180, 320, 240, 0x38),
        (0x89, .deg270, 240, 320, 0x88)] : List (Byte × Orientation × U16 × U16 × Byte))) :
    v = o.byte ∧ width = orientWidth o.byte ∧ height = orientHeight o.byte ∧ madctl = orientMadctl o.byte := by
  simp only [List.mem_cons, Prod.mk.injEq, List.not_mem_nil, or_false] at h
  rcases h with ⟨rfl, rfl, rfl, rfl, rfl⟩ | ⟨rfl, rfl, rfl, rfl, rfl⟩ | ⟨rfl, rfl, rfl, rfl, rfl⟩ |
    ⟨rfl, rfl, rfl, rfl, rfl⟩ <;> decide

/-- The block SET_ORIENTATION leaves, where the display was released before it. -/
theorem State.oriented_st_of_released (o : Orientation) {s : State} (hd : s.st.dcsN = true) : (s.oriented o).st =
    { s.st.afterWord true with orient := o, width := orientWidth o.byte, height := orientHeight o.byte } := by
  rw [← Block.afterWord_with_dcsN hd true]
  rfl

/-- Settles O28: a legal value by the table and `exec_setOrientation_go`, any other byte by `Orientation.ofByte`. -/
theorem setOrientationSetsDimensions : Obligations.SetOrientationSetsDimensions := by
  intro v s hs
  refine ⟨fun hd o width height madctl hmem => ?_, fun hd h0 h90 h180 h270 => ?_,
    fun hd => congrArg Host.Outcome.next (plainOp_bracket _ hs hd)⟩
  · obtain ⟨rfl, rfl, rfl, rfl⟩ := orientation_of_table hmem
    rw [exec_setOrientation_go o hs hd, ← State.oriented_st_of_released o hd]
    rfl
  · have hv := Orientation.ofByte_reserved h0 h90 h180 h270
    exact congrArg Host.Outcome.next (plainOp_stop hs (setOrientationBody_reserved hd hv))

/-- The controller after SET_ORIENTATION's words: each register they write has the orientation's own value. -/
theorem Ctl.receive_orientation (c : Ctl) (o : Orientation) : c.receive (orientationWords o) =
    { c with
      cmd := some 0x2B, pcount := 4, pbuf := bytesOf 0 ++ bytesOf (orientHeight o.byte - 1), hi := none
      madctl := some (orientMadctl o.byte)
      xs := 0, xe := orientWidth o.byte - 1, ys := 0, ye := orientHeight o.byte - 1 } := by
  rw [orientationWords, Ctl.receive_append, Ctl.receive_area]
  rfl

theorem State.oriented_wire (o : Orientation) (s : State) :
    (s.oriented o).wire = s.wire ++ expand (orientationEvents o) s.draws := by
  rw [State.oriented, State.wire_after]

/-- A second SET_ORIENTATION of the same value writes the block the first one left. -/
theorem State.oriented_st_again (o : Orientation) (s : State) : ((s.oriented o).oriented o).st = (s.oriented o).st := by
  simp only [State.oriented_st, Block.afterWord]

theorem Ctl.receive_orientation_again (c : Ctl) (o : Orientation) :
    (c.receive (orientationWords o)).receive (orientationWords o) = c.receive (orientationWords o) := by
  simp only [Ctl.receive_orientation]

/-- Settles O29: the second call finds the block and the controller with every value it writes. -/
theorem orientationTwiceIsOnce : Obligations.OrientationTwiceIsOnce := by
  intro o s t hs hd hexec
  rw [exec_setOrientation_go o hs hd] at hexec
  obtain rfl := Host.Outcome.next.inj hexec
  have hready : ((s.oriented o).setResult .ok).Ready := hs
  refine ⟨rfl, rfl, State.oriented_wire o s, _, exec_setOrientation_go o hready rfl, ?_, ?_, ?_⟩
  · exact State.oriented_st_again o s
  · exact Ctl.receive_orientation_again s.ctl o
  · exact State.oriented_wire o ((s.oriented o).setResult .ok)

/-! ### SET_INVERTED and SET_BRIGHTNESS (R169, R170) -/

/-- The controller after INV_ON or INV_OFF (R74). -/
theorem Ctl.command_inversion (c : Ctl) (inv : Bool) : c.command (if inv then 0x21 else 0x20) =
    { c with
      cmd := some (if inv then 0x21 else 0x20), pcount := 0, pbuf := [], hi := none, inv := some inv } := by
  cases inv <;> rfl

/-- SET_INVERTED with no bracket open: one bracket of one command word. -/
theorem setInvertedBody_go (inv : Bool) {s : State} (hd : s.st.dcsN = true) : setInvertedBody inv s =
    .go (s.after [.ev (.csd false), .w9 false (if inv then 0x21 else 0x20), .ev (.csd true)]
      { s.st.afterWord false with dcsN := true } (s.ctl.command (if inv then 0x21 else 0x20))) := by
  rw [setInvertedBody, requireNoBracket_go hd, bracketed_go]
  rfl

/-- Settles O30: the command of the bracket is the one that sets the inversion. -/
theorem setInvertedSendsInversion : Obligations.SetInvertedSendsInversion := by
  intro inv s hs
  refine ⟨fun hd => ?_, fun hd => congrArg Host.Outcome.next (plainOp_bracket _ hs hd)⟩
  rw [← Ctl.command_inversion]
  exact congrArg Host.Outcome.next (plainOp_go hs (setInvertedBody_go inv hd))

/-- Settles O31: past the prelude the body is the fault and nothing else. -/
theorem setBrightnessIsRefused : Obligations.SetBrightnessIsRefused :=
  fun _ _ hs => congrArg Host.Outcome.next (plainOp_stop (body := fail .refused) hs rfl)

end Sys2Proof.Machine

/-! PROOFS about the raw touch read (R200 to R212): the values of R203 and R205 in exact terms, then each way out. -/

namespace Sys2Proof.Machine

/-! ### The pressure and the axis values (R203, R205) -/

/-- The mask of R203 keeps a reading's low seven bits. -/
theorem toNat_and_0x7F (b : Byte) : (b &&& 0x7F).toNat = b.toNat % 128 := by
  rw [BitVec.toNat_and]
  exact Nat.and_two_pow_sub_one_eq_mod b.toNat 7

/-- The pressure does not overflow 8 bits: each of its terms is at most 127 (R203). -/
theorem pressureAt_toNat (s : State) :
    (pressureAt s).toNat = (adcByte s 1).toNat % 128 + (255 - (adcByte s 3).toNat) % 128 := by
  have hsub : (255 - adcByte s 3).toNat = 255 - (adcByte s 3).toNat := by bv_omega
  rw [pressureAt, pressure, BitVec.toNat_add, toNat_and_0x7F, toNat_and_0x7F, hsub]
  omega

theorem pressed_iff {p : Byte} : pressed p = true ↔ 5 < p.toNat := decide_eq_true_iff

/-- The shifted bytes of R205 do not overlap: the value is the high byte followed by the low byte's top two bits. -/
theorem axisValue_eq_append (a b : Byte) : axisValue a b = (a ++ b.extractLsb' 6 2).setWidth 16 := by
  ext i hi
  rw [BitVec.getElem_setWidth, BitVec.getLsbD_append]
  interval_cases i <;> simp [axisValue]

theorem axisValue_toNat_lt (a b : Byte) : (axisValue a b).toNat < 1024 := by
  have hten := (a ++ b.extractLsb' 6 2).isLt
  rw [axisValue_eq_append, BitVec.toNat_setWidth]
  omega

theorem axisAt_eq (s : State) (k : Nat) : axisAt s k =
    if adcByte s (k + 1) = adcByte s (k + 4) then
      (adcByte s (k + 4) ++ (adcByte s (k + 5)).extractLsb' 6 2).setWidth 16 else 0 := by
  rw [axisAt, agreed, axisValue_eq_append]

/-- A non-zero axis value passed the agreement filter, and is a 10-bit value (R205, R209, R212). -/
theorem axisAt_ne_zero {s : State} {k : Nat} (h : axisAt s k ≠ 0) :
    1 ≤ (axisAt s k).toNat ∧ (axisAt s k).toNat ≤ 1023 ∧ adcByte s (k + 1) = adcByte s (k + 4) := by
  have hpos : 1 ≤ (axisAt s k).toNat := by bv_omega
  unfold axisAt agreed at *
  split at h
  · next hagree =>
    have hlt := axisValue_toNat_lt (adcByte s (k + 4)) (adcByte s (k + 5))
    rw [if_pos hagree] at hpos ⊢
    exact ⟨hpos, by omega, hagree⟩
  · exact absurd rfl h

/-! ### The ways out of a raw read (R200 to R209) -/

/-- The prelude admits a raw read in a ready block. -/
theorem exec_touchRawRead_ready {s : State} (hs : s.Ready) : exec .touchRawRead s = .next (touchRawBody s).final := by
  obtain ⟨hfault, hinit, hbatch⟩ := hs
  exact congrArg Host.Outcome.next (hostOp_admitted .plain touchRawBody s hfault (.inr hinit) (.inr hbatch))

theorem exec_touchRawRead_noTouch {s t : State} (hs : s.Ready) (hraw : rawSample s = .noTouch t) :
    exec .touchRawRead s = .next (t.setResult .noTouch) := by
  rw [exec_touchRawRead_ready hs, touchRawBody, hraw, Flow.final_go]

theorem exec_touchRawRead_touch {s t : State} {p : Byte} {tx ty : U16} (hs : s.Ready)
    (hraw : rawSample s = .touch p tx ty t) : exec .touchRawRead s = .next (t.setResult (.raw p tx ty)) := by
  rw [exec_touchRawRead_ready hs, touchRawBody, hraw, Flow.final_go]

theorem exec_touchRawRead_conflict {s : State} (hs : s.Ready) (hd : s.st.dcsN = false) :
    exec .touchRawRead s = .next (s.raise .busConflict) := by
  rw [exec_touchRawRead_ready hs, touchRawBody, rawSample_conflict s hd, Flow.final_stop]

/-- Settles O33: the claim's values are the model's, by `pressureAt_toNat` and `axisAt_eq`; each clause is then one
branch of `rawSample_eq`. -/
theorem touchRawReadSamples : Obligations.TouchRawReadSamples := by
  intro s hs
  refine ⟨fun hd p os tx ty hp hos htx hty => ?_, exec_touchRawRead_conflict hs⟩
  obtain rfl : p = (pressureAt s).toNat := hp.trans (pressureAt_toNat s).symm
  obtain rfl : os = zBytes s.params.touchFill := hos
  obtain rfl : tx = axisAt s 4 := htx.trans (axisAt_eq s 4).symm
  obtain rfl : ty = axisAt s 10 := hty.trans (axisAt_eq s 10).symm
  rw [BitVec.ofNat_toNat, BitVec.setWidth_eq, ← pressed_iff, ← not_lt, ← pressed_iff]
  have hraw := rawSample_eq s hd
  refine ⟨fun hp => ?_, fun hp hx => ?_, fun hp hx hy => ?_, fun hp hx hy => ?_⟩
  · exact exec_touchRawRead_noTouch hs (by rw [hraw, if_neg hp])
  · exact exec_touchRawRead_noTouch hs (by rw [hraw, if_pos hp, if_pos hx])
  · exact exec_touchRawRead_noTouch hs (by rw [hraw, if_pos hp, if_neg hx, if_pos hy])
  · exact exec_touchRawRead_touch hs (by rw [hraw, if_pos hp, if_neg hx, if_neg hy])

/-- Settles O34: of the four ways out that O33 gives, only the last answers OK; there the pressure is over the threshold
and `axisAt_ne_zero` holds on both axes. -/
theorem rawReadRangesAndNoiseFilter : Obligations.RawReadRangesAndNoiseFilter := by
  intro s hs hd
  have hpressure := pressureAt_toNat s
  obtain ⟨hlight, hnoX, hnoY, htouch⟩ :=
    (touchRawReadSamples s hs).1 hd _ _ _ _ hpressure rfl (axisAt_eq s 4) (axisAt_eq s 10)
  obtain hp | hp := le_or_gt (pressureAt s).toNat 5
  · exact ⟨_, hlight hp, .inl rfl⟩
  by_cases hx : axisAt s 4 = 0
  · exact ⟨_, hnoX hp hx, .inl rfl⟩
  by_cases hy : axisAt s 10 = 0
  · exact ⟨_, hnoY hp hx hy, .inl rfl⟩
  obtain ⟨hxpos, hxmax, hxagree⟩ := axisAt_ne_zero hx
  obtain ⟨hypos, hymax, hyagree⟩ := axisAt_ne_zero hy
  rw [BitVec.ofNat_toNat, BitVec.setWidth_eq] at htouch
  exact ⟨_, htouch hp hx hy, .inr ⟨_, _, _, rfl, by omega, by omega, hxpos, hxmax, hypos, hymax, hxagree, hyagree⟩⟩

end Sys2Proof.Machine

/-! PROOFS about calibration (R232, R233, R243 to R245): the targets on the 0° screen, and the affine law, said first
of the exact coefficients, then of the words and the quotients of either arithmetic. -/

namespace Sys2Proof.Machine

/-! ### The reference points and the squares of a crosshair (R232, R233) -/

/-- Every reference point keeps the calibration margin to each edge of the 0° screen. -/
theorem refPoint_margin (i : Nat) : 20 ≤ (refPoint i).x.toNat ∧ (refPoint i).x.toNat ≤ 300 ∧
    20 ≤ (refPoint i).y.toNat ∧ (refPoint i).y.toNat ≤ 220 := by
  match i with
  | 0 => decide
  | 1 => decide
  | _ + 2 => exact (by decide : 20 ≤ (refPoint 2).x.toNat ∧ (refPoint 2).x.toNat ≤ 300 ∧
      20 ≤ (refPoint 2).y.toNat ∧ (refPoint 2).y.toNat ≤ 220)

theorem mem_crosshairSquares {q : Rect × U16} {p : RawPoint} {fg bg : U16} (hq : q ∈ crosshairSquares p fg bg) :
    ∃ s, 0 < s ∧ s ≤ 20 ∧ q.1 = squareAt p s := by
  simp only [crosshairSquares, List.mem_cons, List.not_mem_nil, or_false] at hq
  obtain rfl | rfl | rfl | rfl := hq
  exacts [⟨20, by decide, by decide, rfl⟩, ⟨18, by decide, by decide, rfl⟩, ⟨8, by decide, by decide, rfl⟩,
    ⟨6, by decide, by decide, rfl⟩]

theorem clampSize_of_add_le {dim v n : Nat} (h : v + n ≤ dim) : clampSize dim v n = n := by
  unfold clampSize; split <;> omega

/-- CLAMP_RECT leaves a rectangle that lies on the screen as it is (R165). -/
theorem clampRect_of_inside {width height : U16} {r : Rect} (hx : r.x.toNat < width.toNat)
    (hxw : r.x.toNat + r.w.toNat ≤ width.toNat) (hy : r.y.toNat < height.toNat)
    (hyh : r.y.toNat + r.h.toNat ≤ height.toNat) : clampRect width height r = r := by
  simp [clampRect, clampStart, Nat.not_le.mpr hx, Nat.not_le.mpr hy, clampSize_of_add_le hxw, clampSize_of_add_le hyh]

/-- A square of side at most 20 about a reference point lies on the 0° screen. -/
theorem clampRect_squareAt (i : Nat) {s : Nat} (hs : s ≤ 20) :
    clampRect 320 240 (squareAt (refPoint i) s) = squareAt (refPoint i) s := by
  obtain ⟨hx, hx', hy, hy'⟩ := refPoint_margin i
  have hcorner (v : U16) (hv : 20 ≤ v.toNat) : (v - BitVec.ofNat 16 (s / 2)).toNat = v.toNat - s / 2 := by
    rw [BitVec.toNat_sub, BitVec.toNat_ofNat]; omega
  have hside : (BitVec.ofNat 16 s).toNat = s := by rw [BitVec.toNat_ofNat]; omega
  apply clampRect_of_inside <;> simp [squareAt, hcorner _ hx, hcorner _ hy, hside] <;> omega

/-- Rectangles that the clamp leaves as they are, none of them empty, are filled by one whole batch each. -/
theorem foldl_filledRect_eq_batched {width height : U16} (l : List (Rect × U16)) {s : State}
    (hl : ∀ q ∈ l, clampRect width height q.1 = q.1 ∧ q.1.w ≠ 0 ∧ q.1.h ≠ 0)
    (hwidth : s.st.width = width) (hheight : s.st.height = height) :
    l.foldl (fun t q => t.filledRect q.1 q.2) s =
      l.foldl (fun t q => t.batched q.1 (List.replicate (q.1.w.toNat * q.1.h.toNat) q.2)) s := by
  induction l generalizing s with
  | nil => rfl
  | cons q l ih =>
    obtain ⟨hclamp, hw, hh⟩ := hl q List.mem_cons_self
    have hfirst : s.filledRect q.1 q.2 = s.batched q.1 (List.replicate (q.1.w.toNat * q.1.h.toNat) q.2) := by
      rw [State.filledRect, hwidth, hheight, hclamp, if_neg (not_or.mpr ⟨hw, hh⟩)]
    rw [List.foldl_cons, List.foldl_cons, hfirst]
    exact ih (fun q hq => hl q (List.mem_cons_of_mem _ hq)) hwidth hheight

/-- Settles O36: each square of a crosshair lies on the 0° screen, so CROSSHAIR fills the four whole. -/
theorem referencePointsAndSquares : Obligations.ReferencePointsAndSquares := by
  refine ⟨rfl, rfl, rfl, fun i fg bg p hp => ?_⟩
  subst hp
  have hsquares : ∀ q ∈ crosshairSquares (refPoint i) fg bg,
      clampRect 320 240 q.1 = q.1 ∧ q.1.w ≠ 0 ∧ q.1.h ≠ 0 := by
    intro q hq
    obtain ⟨s, hpos, hs, hq⟩ := mem_crosshairSquares hq
    have hside : BitVec.ofNat 16 s ≠ 0 := by bv_omega
    exact ⟨hq ▸ clampRect_squareAt i hs, hq ▸ hside, hq ▸ hside⟩
  refine ⟨rfl, fun q hq => (hsquares q hq).1, fun s hd hw hh => ?_⟩
  have hdraw : s.Drawable := ⟨hd, by rw [hw]; decide, by rw [hh]; decide⟩
  rw [crosshair_go _ _ _ _ hdraw, State.crosshaired, foldl_filledRect_eq_batched _ hsquares hw hh]
  rfl

/-! ### The exact coefficients (R237, R243, R245) -/

/-- The exact numerator of the x coordinate at a raw point (R265). -/
def Coeffs.numeratorX (k : Coeffs Int) (r : RawPoint) : Int := k.a * (r.x.toNat : Int) + k.b * (r.y.toNat : Int) + k.c

/-- The exact numerator of the y coordinate at a raw point (R265). -/
def Coeffs.numeratorY (k : Coeffs Int) (r : RawPoint) : Int := k.d * (r.x.toNat : Int) + k.e * (r.y.toNat : Int) + k.f

/-- The three reference points, each with the raw point recorded for it (R231). -/
def CalPoints.targets (t : CalPoints) : List (RawPoint × RawPoint) :=
  [(refPoint 0, t.p0), (refPoint 1, t.p1), (refPoint 2, t.p2)]

/-- Every coordinate of the three points is in [`lo`, `hi`]: `Accepted` is the range [1, 1023]. -/
def CalPoints.Within (lo hi : Nat) (t : CalPoints) : Prop :=
  ∀ p ∈ [t.p0, t.p1, t.p2], lo ≤ p.x.toNat ∧ p.x.toNat ≤ hi ∧ lo ≤ p.y.toNat ∧ p.y.toNat ≤ hi

theorem CalPoints.within_words (t : CalPoints) : t.Within 0 65535 :=
  fun p _ => ⟨Nat.zero_le _, by have := p.x.isLt; omega, Nat.zero_le _, by have := p.y.isLt; omega⟩

section Targets
variable {t : CalPoints} {l r : RawPoint}

theorem CalPoints.targets_margin (h : (l, r) ∈ t.targets) :
    20 ≤ l.x.toNat ∧ l.x.toNat ≤ 300 ∧ 20 ≤ l.y.toNat ∧ l.y.toNat ≤ 220 := by
  simp only [CalPoints.targets, List.mem_cons, Prod.mk.injEq, List.not_mem_nil, or_false] at h
  obtain ⟨rfl, -⟩ | ⟨rfl, -⟩ | ⟨rfl, -⟩ := h <;> exact refPoint_margin _

/-- R243: the formulas of R237 solve the interpolation problem, as polynomials in the coordinates. -/
theorem coeffsExact_affine (h : (l, r) ∈ t.targets) :
    (coeffsExact t).numeratorX r = (l.x.toNat : Int) * (coeffsExact t).div ∧
    (coeffsExact t).numeratorY r = (l.y.toNat : Int) * (coeffsExact t).div := by
  simp only [CalPoints.targets, List.mem_cons, Prod.mk.injEq, List.not_mem_nil, or_false] at h
  simp only [Coeffs.numeratorX, Coeffs.numeratorY, coeffsExact, coeffs, tripleOf, exactCoord, refPoints]
  obtain ⟨rfl, rfl⟩ | ⟨rfl, rfl⟩ | ⟨rfl, rfl⟩ := h <;> constructor <;> ring

end Targets

theorem abs_mul_sub_mul_le {p q r s P : Int} (hp : |p| ≤ P) (hq : |q| ≤ P) (hr : |r| ≤ P) (hs : |s| ≤ P) :
    |p * q - r * s| ≤ 2 * P ^ 2 := by
  have hP : 0 ≤ P := (abs_nonneg p).trans hp
  have hpq : |p * q| ≤ P * P := by rw [abs_mul]; gcongr
  have hrs : |r * s| ≤ P * P := by rw [abs_mul]; gcongr
  calc |p * q - r * s| ≤ |p * q| + |r * s| := abs_sub _ _
    _ ≤ 2 * P ^ 2 := by linarith

theorem abs_sum_mul_le {p q r u v w P Q : Int} (hp : |p| ≤ P) (hq : |q| ≤ P) (hr : |r| ≤ P)
    (hu : |u| ≤ Q) (hv : |v| ≤ Q) (hw : |w| ≤ Q) : |p * u + q * v + r * w| ≤ 3 * Q * P := by
  have hP : 0 ≤ P := (abs_nonneg p).trans hp
  have hpu : |p * u| ≤ P * Q := by rw [abs_mul]; gcongr
  have hqv : |q * v| ≤ P * Q := by rw [abs_mul]; gcongr
  have hrw : |r * w| ≤ P * Q := by rw [abs_mul]; gcongr
  calc |p * u + q * v + r * w| ≤ |p * u| + |q * v| + |r * w| := abs_add_three _ _ _
    _ ≤ 3 * Q * P := by linarith

theorem coeffsExact_eq (t : CalPoints) :
    coeffsExact t = coeffs ⟨20, 20, 300, 120, 160, 220⟩ (tripleOf exactCoord t) := rfl

/-- R245 for any range of raw coordinates. The screen points are literals, so `a`, `b`, `d`, `e` are linear in the raw
ones; the determinant is quadratic, and `c` and `f` are sums of three products. -/
theorem coeffsExact_bounds {lo hi : Nat} {t : CalPoints} (h : t.Within lo hi) :
    |(coeffsExact t).div| ≤ 2 * ((hi : Int) - lo) ^ 2 ∧
    |(coeffsExact t).a| ≤ 2 * 140 * ((hi : Int) - lo) ∧ |(coeffsExact t).b| ≤ 2 * 140 * ((hi : Int) - lo) ∧
    |(coeffsExact t).d| ≤ 300 * ((hi : Int) - lo) ∧ |(coeffsExact t).e| ≤ 300 * ((hi : Int) - lo) ∧
    |(coeffsExact t).c| ≤ 3 * (hi : Int) * (300 * hi) ∧ |(coeffsExact t).f| ≤ 3 * (hi : Int) * (300 * hi) := by
  obtain ⟨⟨x0, y0⟩, ⟨x1, y1⟩, ⟨x2, y2⟩⟩ := t
  simp only [CalPoints.Within, List.forall_mem_cons, List.not_mem_nil, false_imp_iff, implies_true, and_true] at h
  simp only [coeffsExact_eq, coeffs, tripleOf, exactCoord]
  refine ⟨abs_mul_sub_mul_le ?_ ?_ ?_ ?_, ?_, ?_, ?_, ?_, abs_sum_mul_le ?_ ?_ ?_ ?_ ?_ ?_,
    abs_sum_mul_le ?_ ?_ ?_ ?_ ?_ ?_⟩ <;> rw [abs_le] <;> omega

/-! ### The words (R238, R239) -/

theorem ofInt_sub (n : Nat) (x y : Int) : BitVec.ofInt n (x - y) = BitVec.ofInt n x - BitVec.ofInt n y := by
  rw [Int.sub_eq_add_neg, BitVec.ofInt_add, BitVec.ofInt_neg, BitVec.sub_eq_add_neg]

theorem setWidth_eq_ofInt (n : Nat) (v : U16) : v.setWidth n = BitVec.ofInt n (v.toNat : Int) := by
  rw [BitVec.ofInt_natCast, BitVec.ofNat_toNat]

/-- Reduction modulo 2^32 commutes with the formulas of R237 (R238). -/
theorem computeCal_u32 (t : CalPoints) :
    computeCal .u32 t = wordsOf (fun v => (BitVec.ofInt 32 v).setWidth 64) (coeffsExact t) := by
  simp only [computeCal, wordsOf, coeffsU32, coeffsExact, coeffs, tripleOf, exactCoord, u32Coord, ofInt_sub,
    BitVec.ofInt_add, BitVec.ofInt_mul, setWidth_eq_ofInt]

/-- The exact numerator modulo 2^32 is the numerator of the words modulo 2^32 (R265). -/
theorem numeratorU32_ofInt (a b c : Int) (tx ty : U16) :
    numeratorU32 ((BitVec.ofInt 32 a).setWidth 64) ((BitVec.ofInt 32 b).setWidth 64)
      ((BitVec.ofInt 32 c).setWidth 64) tx ty = BitVec.ofInt 32 (a * (tx.toNat : Int) + b * (ty.toNat : Int) + c) := by
  simp only [numeratorU32, BitVec.ofInt_add, BitVec.ofInt_mul, setWidth_eq_ofInt, Nat.reduceLeDiff,
    BitVec.setWidth_setWidth_of_le, BitVec.setWidth_eq]

/-- The numerators and the divisor of the u32 words are the exact ones modulo 2^32. -/
theorem computeCal_u32_numerators (t : CalPoints) (r : RawPoint) :
    let k := computeCal .u32 t
    numeratorU32 k.a k.b k.c r.x r.y = BitVec.ofInt 32 ((coeffsExact t).numeratorX r) ∧
    numeratorU32 k.d k.e k.f r.x r.y = BitVec.ofInt 32 ((coeffsExact t).numeratorY r) ∧
    k.cdiv.setWidth 32 = BitVec.ofInt 32 (coeffsExact t).div := by
  rw [computeCal_u32]
  exact ⟨numeratorU32_ofInt _ _ _ _ _, numeratorU32_ofInt _ _ _ _ _, by simp [wordsOf]⟩

theorem toInt_ofInt_64_of_abs_lt {v : Int} (h : |v| < 2 ^ 63) : (BitVec.ofInt 64 v).toInt = v :=
  BitVec.toInt_ofInt_eq_self (by decide) (abs_lt.mp h).1.le (abs_lt.mp h).2

/-- No s64 word overflows, whatever the raw points (R239). -/
theorem computeCal_s64_toInt (t : CalPoints) :
    let k := computeCal .s64 t
    k.a.toInt = (coeffsExact t).a ∧ k.b.toInt = (coeffsExact t).b ∧ k.c.toInt = (coeffsExact t).c ∧
    k.d.toInt = (coeffsExact t).d ∧ k.e.toInt = (coeffsExact t).e ∧ k.f.toInt = (coeffsExact t).f ∧
    k.cdiv.toInt = (coeffsExact t).div := by
  obtain ⟨hdiv, ha, hb, hd, he, hc, hf⟩ := coeffsExact_bounds t.within_words
  refine ⟨?_, ?_, ?_, ?_, ?_, ?_, ?_⟩ <;> apply toInt_ofInt_64_of_abs_lt <;> omega

/-- The numerators of the s64 words are the exact ones. -/
theorem computeCal_s64_numerators (t : CalPoints) (r : RawPoint) :
    let k := computeCal .s64 t
    numeratorS64 k.a k.b k.c r.x r.y = (coeffsExact t).numeratorX r ∧
    numeratorS64 k.d k.e k.f r.x r.y = (coeffsExact t).numeratorY r := by
  obtain ⟨ha, hb, hc, hd, he, hf, -⟩ := computeCal_s64_toInt t
  simp only [numeratorS64, Coeffs.numeratorX, Coeffs.numeratorY, ha, hb, hc, hd, he, hf, and_self]

/-! ### The quotients (R243, R244) -/

theorem quotS64_mul_self (n : Int) {d : Int} (hd : d ≠ 0) : quotS64 (n * d) d = n := by
  rw [quotS64, if_neg hd, Int.mul_tdiv_cancel _ hd]

theorem clampS64_of_lt {v : U16} {dim : Nat} (h : v.toNat < dim) : clampS64 (v.toNat : Int) dim = v := by
  rw [clampS64, if_neg (by omega), if_neg (by omega), BitVec.ofInt_natCast, BitVec.ofNat_toNat, BitVec.setWidth_eq]

theorem clampU32_of_lt {v : U16} {dim : Nat} (h : v.toNat < dim) : clampU32 (v.setWidth 32) dim = v := by
  have hv : (v.setWidth 32).setWidth 16 = v := by simp
  rw [clampU32, hv, if_neg (by omega), if_neg (by omega)]

/-- A positive determinant that leaves the numerator below 2^32 divides it exactly. -/
theorem quotU32_of_pos {v : U16} {d : Int} (hd : 0 < d) (hd32 : d < 2 ^ 32) (hn : (v.toNat : Int) * d < 2 ^ 32) :
    quotU32 (BitVec.ofInt 32 ((v.toNat : Int) * d)) (BitVec.ofInt 32 d) = v.setWidth 32 := by
  lift d to Nat using hd.le
  norm_cast at hd hd32 hn
  have hne : BitVec.ofNat 32 d ≠ 0 := by bv_omega
  rw [← Int.natCast_mul, BitVec.ofInt_natCast, BitVec.ofInt_natCast, quotU32, if_neg hne]
  apply BitVec.eq_of_toNat_eq
  rw [BitVec.toNat_udiv, BitVec.toNat_ofNat, BitVec.toNat_ofNat, Nat.mod_eq_of_lt hd32, Nat.mod_eq_of_lt hn,
    Nat.mul_div_cancel _ hd, BitVec.toNat_setWidth, Nat.mod_eq_of_lt (by omega)]

theorem toNat_ofInt_neg {n : Nat} (hpos : 0 < n) (hlt : n < 2 ^ 32) :
    (BitVec.ofInt 32 (-(n : Int))).toNat = 2 ^ 32 - n := by
  rw [BitVec.toNat_ofInt]; omega

/-- A negative determinant wraps to above its multiple: the quotient is 0 (R244). -/
theorem quotU32_of_neg {v : U16} {d : Int} (hd : d < 0) (hv : 1 < v.toNat) (hn : -2 ^ 32 < (v.toNat : Int) * d) :
    quotU32 (BitVec.ofInt 32 ((v.toNat : Int) * d)) (BitVec.ofInt 32 d) = 0 := by
  obtain ⟨m, rfl⟩ : ∃ m : Nat, d = -(m : Int) := ⟨d.natAbs, by omega⟩
  have hm : 0 < m := by omega
  have hn : v.toNat * m < 2 ^ 32 := by rw [mul_neg] at hn; omega
  have hlt : m < v.toNat * m := (Nat.lt_mul_iff_one_lt_left hm).mpr hv
  have hdiv := toNat_ofInt_neg hm (hlt.trans hn)
  have hnum := toNat_ofInt_neg (hm.trans hlt) hn
  rw [mul_neg, ← Int.natCast_mul, quotU32, if_neg (by bv_omega)]
  apply BitVec.eq_of_toNat_eq
  rw [BitVec.toNat_udiv, hdiv, hnum, Nat.div_eq_of_lt (by omega)]
  rfl

/-! ### The affine law (R243, R244) -/

section AffineLaw
variable {t : CalPoints} {l r : RawPoint}

/-- R243: under s64 the calibrated transform takes each raw point to its reference point. -/
theorem transform_s64_target (h : (l, r) ∈ t.targets) (hdiv : (coeffsExact t).div ≠ 0) :
    transformX .s64 (computeCal .s64 t) r.x r.y = l.x ∧ transformY .s64 (computeCal .s64 t) r.x r.y = l.y := by
  obtain ⟨-, hx, -, hy⟩ := CalPoints.targets_margin h
  obtain ⟨haffineX, haffineY⟩ := coeffsExact_affine h
  obtain ⟨hnumX, hnumY⟩ := computeCal_s64_numerators t r
  obtain ⟨-, -, -, -, -, -, hcdiv⟩ := computeCal_s64_toInt t
  simp only [transformX, transformY, transformAxis, hnumX, hnumY, hcdiv, haffineX, haffineY, quotS64_mul_self _ hdiv]
  exact ⟨clampS64_of_lt (by unfold Config.lcdWidth; omega), clampS64_of_lt (by unfold Config.lcdHeight; omega)⟩

/-- The u32 quotients at a raw point, before the clamp, are those of the screen point times the determinant. -/
theorem quotients_u32_target (h : (l, r) ∈ t.targets) :
    let k := computeCal .u32 t
    quotU32 (numeratorU32 k.a k.b k.c r.x r.y) (k.cdiv.setWidth 32) =
      quotU32 (BitVec.ofInt 32 ((l.x.toNat : Int) * (coeffsExact t).div)) (BitVec.ofInt 32 (coeffsExact t).div) ∧
    quotU32 (numeratorU32 k.d k.e k.f r.x r.y) (k.cdiv.setWidth 32) =
      quotU32 (BitVec.ofInt 32 ((l.y.toNat : Int) * (coeffsExact t).div)) (BitVec.ofInt 32 (coeffsExact t).div) := by
  intro k
  obtain ⟨haffineX, haffineY⟩ := coeffsExact_affine h
  obtain ⟨hnumX, hnumY, hcdiv⟩ := computeCal_u32_numerators t r
  rw [hnumX, hnumY, hcdiv, haffineX, haffineY]
  exact ⟨rfl, rfl⟩

end AffineLaw

/-- A screen coordinate times the determinant of accepted raw points stays within 32 bits. -/
theorem abs_coord_mul_div_lt {t : CalPoints} (ht : t.Accepted) {v : U16} (hv : v.toNat ≤ 300) :
    |(v.toNat : Int) * (coeffsExact t).div| < 2 ^ 32 := by
  obtain ⟨hdiv, -⟩ := coeffsExact_bounds (lo := 1) (hi := 1023) ht
  rw [abs_mul, Nat.abs_cast]
  calc (v.toNat : Int) * |(coeffsExact t).div| ≤ 300 * (2 * ((1023 : Nat) - (1 : Nat)) ^ 2) := by
        gcongr; exact_mod_cast hv
    _ < 2 ^ 32 := by norm_num

/-- R244, where the exact determinant is positive. -/
theorem quotU32_target_of_pos {t : CalPoints} (ht : t.Accepted) {v : U16} (hv : v.toNat ≤ 300)
    (hdiv : 0 < (coeffsExact t).div) :
    quotU32 (BitVec.ofInt 32 ((v.toNat : Int) * (coeffsExact t).div)) (BitVec.ofInt 32 (coeffsExact t).div) =
      v.setWidth 32 := by
  obtain ⟨hbound, -⟩ := coeffsExact_bounds (lo := 1) (hi := 1023) ht
  exact quotU32_of_pos hdiv (by rw [abs_le] at hbound; omega) (abs_lt.mp (abs_coord_mul_div_lt ht hv)).2

/-- R244, where the exact determinant is negative. -/
theorem quotU32_target_of_neg {t : CalPoints} (ht : t.Accepted) {v : U16} (hv1 : 1 < v.toNat) (hv : v.toNat ≤ 300)
    (hdiv : (coeffsExact t).div < 0) :
    quotU32 (BitVec.ofInt 32 ((v.toNat : Int) * (coeffsExact t).div)) (BitVec.ofInt 32 (coeffsExact t).div) = 0 :=
  quotU32_of_neg hdiv hv1 (abs_lt.mp (abs_coord_mul_div_lt ht hv)).1

/-- Settles O40: the exact law is an identity of polynomials; the quotients follow from it by the sign of the
determinant and the bounds that keep each value inside its word. -/
theorem calibrationAffineLaw : Obligations.CalibrationAffineLaw := by
  refine ⟨fun t l r h hdiv => ?_, fun t l r k ht hk h => ?_, by decide, by decide⟩
  · obtain ⟨hX, hY⟩ := coeffsExact_affine (t := t) h
    exact ⟨hX, hY, transform_s64_target h hdiv⟩
  · subst hk
    obtain ⟨hx1, hx, hy1, hy⟩ := CalPoints.targets_margin (t := t) h
    obtain ⟨hquotX, hquotY⟩ := quotients_u32_target (t := t) h
    simp only [transformX, transformY, transformAxis, hquotX, hquotY]
    refine ⟨fun hdiv => ?_, fun hdiv => ?_⟩
    · rw [quotU32_target_of_pos ht hx hdiv, quotU32_target_of_pos ht (by omega) hdiv]
      exact ⟨rfl, rfl, clampU32_of_lt (by unfold Config.lcdWidth; omega),
        clampU32_of_lt (by unfold Config.lcdHeight; omega)⟩
    · rw [quotU32_target_of_neg ht (by omega) hx hdiv, quotU32_target_of_neg ht (by omega) (by omega) hdiv]
      exact ⟨rfl, rfl, rfl, rfl⟩

end Sys2Proof.Machine

/-! PROOFS about the calibrated read's arithmetic (R265 to R271, R274, R275): the numerators, the quotients, the clamps
and the remap in exact terms. -/

namespace Sys2Proof.Machine

/-! ### Numerators (R265) -/

theorem numeratorU32_toNat (u v w : BitVec 64) (tx ty : U16) :
    (numeratorU32 u v w tx ty).toNat = (u.toNat * tx.toNat + v.toNat * ty.toNat + w.toNat) % 2 ^ 32 := by
  have htx : tx.toNat % 2 ^ 32 = tx.toNat := Nat.mod_eq_of_lt (by omega)
  have hty : ty.toNat % 2 ^ 32 = ty.toNat := Nat.mod_eq_of_lt (by omega)
  simp only [numeratorU32, BitVec.toNat_add, BitVec.toNat_mul, BitVec.toNat_setWidth, htx, hty, Nat.add_mod_mod,
    Nat.mod_add_mod, Nat.mod_mul_mod]

/-- R245's bounds on the words keep a numerator at a raw reading within 31 bits. -/
theorem abs_numerator_lt {u v w : Int} {r : RawPoint} (hu : |u| ≤ 306600) (hv : |v| ≤ 306600)
    (hw : |w| ≤ 3 * 1023 * 306900) (hx : r.x.toNat ≤ 1023) (hy : r.y.toNat ≤ 1023) :
    |u * (r.x.toNat : Int) + v * (r.y.toNat : Int) + w| < 2 ^ 31 := by
  have hux : |u * (r.x.toNat : Int)| ≤ 306600 * 1023 := by
    rw [abs_mul, Nat.abs_cast]; gcongr; exact_mod_cast hx
  have hvy : |v * (r.y.toNat : Int)| ≤ 306600 * 1023 := by
    rw [abs_mul, Nat.abs_cast]; gcongr; exact_mod_cast hy
  calc |u * (r.x.toNat : Int) + v * (r.y.toNat : Int) + w|
      ≤ |u * (r.x.toNat : Int)| + |v * (r.y.toNat : Int)| + |w| := abs_add_three _ _ _
    _ < 2 ^ 31 := by linarith

theorem CalPoints.Accepted.abs_numerators_lt {t : CalPoints} (ht : t.Accepted) {r : RawPoint}
    (hx : r.x.toNat ≤ 1023) (hy : r.y.toNat ≤ 1023) :
    |(coeffsExact t).numeratorX r| < 2 ^ 31 ∧ |(coeffsExact t).numeratorY r| < 2 ^ 31 := by
  obtain ⟨-, ha, hb, hd, he, hc, hf⟩ := coeffsExact_bounds (lo := 1) (hi := 1023) ht
  exact ⟨abs_numerator_lt (by omega) (by omega) (by omega) hx hy,
    abs_numerator_lt (by omega) (by omega) (by omega) hx hy⟩

/-! ### Clamps (R269, R270) -/

theorem clampU32_toNat (q : BitVec 32) {dim : Nat} (h0 : 0 < dim) (h1 : dim ≤ 0x7FFF) : (clampU32 q dim).toNat =
    if q.toNat % 65536 ≥ 2 * dim then 0 else if q.toNat % 65536 ≥ dim then dim - 1 else q.toNat % 65536 := by
  simp only [clampU32, BitVec.toNat_setWidth]
  split_ifs
  · rfl
  · rw [BitVec.toNat_ofNat, Nat.mod_eq_of_lt (by omega)]
  · rw [BitVec.toNat_setWidth]

theorem clampS64_toNat (q : Int) {dim : Nat} (h0 : 0 < dim) (h1 : dim ≤ 0x7FFF) : ((clampS64 q dim).toNat : Int) =
    if q < 0 then 0 else if q ≥ dim then (dim : Int) - 1 else q := by
  unfold clampS64
  split_ifs
  · rfl
  · rw [BitVec.toNat_ofNat]; omega
  · rw [BitVec.toNat_ofInt]; omega

/-- The clamp cannot tell two quotients that are not positive apart. -/
theorem clampS64_of_nonpos {q : Int} (h : q ≤ 0) (dim : Nat) : clampS64 q dim = 0 := by
  unfold clampS64
  split_ifs with hneg hdim
  · rfl
  · obtain rfl : dim = 0 := by omega
    rfl
  · obtain rfl : q = 0 := by omega
    rfl

/-- Settles O42: the numerators by `numeratorU32_toNat` and the bounds of R245, the clamps by their exact values; the
s64 numerator and the dimensions are the definitions. -/
theorem divisionAndClamps : Obligations.DivisionAndClamps := by
  refine ⟨fun u v w tx ty => ⟨numeratorU32_toNat u v w tx ty, rfl⟩, fun t k tx ty ht hk hx hy => ?_,
    fun k tx ty => ⟨rfl, rfl, rfl, rfl⟩, fun n d hd => ?_, fun q dim => clampU32_toNat q,
    fun q dim => clampS64_toNat q⟩
  · obtain ⟨hnumX, hnumY⟩ := computeCal_s64_numerators t ⟨tx, ty⟩
    rw [hk, hnumX, hnumY]
    exact ht.abs_numerators_lt hx hy
  · rw [quotU32, if_neg hd, BitVec.toNat_udiv]

/-! ### Truncation and floor (R267) -/

/-- Truncating division rounds the quotient of the magnitudes down, whatever the signs. -/
theorem tdiv_eq_sign_mul_natAbs_div (n d : Int) :
    n.tdiv d = n.sign * d.sign * ((n.natAbs / d.natAbs : Nat) : Int) := by
  rw [← Int.sign_mul_natAbs (n.tdiv d), Int.sign_tdiv, Int.natAbs_tdiv]
  split
  · next hlt => rw [Nat.div_eq_of_lt hlt, zero_mul, Nat.cast_zero, mul_zero]
  · rfl

/-- Floor and truncation differ only where neither is positive: for operands of opposite signs. -/
theorem fdiv_eq_tdiv_or_nonpos (n d : Int) : n.fdiv d = n.tdiv d ∨ n.fdiv d ≤ 0 ∧ n.tdiv d ≤ 0 := by
  obtain hn | hn := le_total 0 n <;> obtain hd | hd := le_total 0 d
  · exact .inl (Int.fdiv_eq_tdiv_of_nonneg hn hd)
  · exact .inr ⟨Int.fdiv_nonpos_of_nonneg_of_nonpos hn hd, Int.tdiv_nonpos_of_nonneg_of_nonpos hn hd⟩
  · rw [← Int.neg_fdiv_neg, ← Int.neg_tdiv_neg]
    exact .inr ⟨Int.fdiv_nonpos_of_nonneg_of_nonpos (by omega) (by omega),
      Int.tdiv_nonpos_of_nonneg_of_nonpos (by omega) (by omega)⟩
  · rw [← Int.neg_fdiv_neg, ← Int.neg_tdiv_neg]
    exact .inl (Int.fdiv_eq_tdiv_of_nonneg (by omega) (by omega))

/-- Settles O43: where floor and truncation differ, the clamp takes both to 0. -/
theorem truncationEqualsFloorAfterClamp : Obligations.TruncationEqualsFloorAfterClamp := by
  intro n d dim hd
  have hquot : quotS64 n d = n.tdiv d := if_neg hd
  rw [hquot]
  refine ⟨tdiv_eq_sign_mul_natAbs_div n d, ?_⟩
  obtain heq | ⟨hfloor, htrunc⟩ := fdiv_eq_tdiv_or_nonpos n d
  · rw [heq]
  · rw [clampS64_of_nonpos hfloor, clampS64_of_nonpos htrunc]

/-! ### The remap (R271, R275) -/

/-- A coordinate inside a dimension, counted from the other edge: the subtraction is exact, not 0, and its own inverse. -/
theorem mirror_coord {dim v : U16} (h : v.toNat < dim.toNat) :
    (dim - v).toNat = dim.toNat - v.toNat ∧ 1 ≤ (dim - v).toNat ∧ v = dim - (dim - v) := by
  have hsub : (dim - v).toNat = dim.toNat - v.toNat := BitVec.toNat_sub_of_le h.le
  exact ⟨hsub, by omega, (sub_sub_self dim v).symm⟩

/-- Settles O44: each mirrored coordinate of the table by `mirror_coord`, the others as they are. -/
theorem remapTableAndInverses : Obligations.RemapTableAndInverses := by
  intro sx sy hx hy
  obtain ⟨hxval, hxpos, hxinv⟩ := mirror_coord (dim := 320) hx
  obtain ⟨hyval, hypos, hyinv⟩ := mirror_coord (dim := 240) hy
  refine ⟨rfl, ⟨rfl, hxval, hxpos, hxval.trans_le (Nat.sub_le _ _), hxinv⟩,
    ⟨hxval, hyval, hxpos, hypos, ?_⟩, hyval, rfl, hypos, hyval.trans_le (Nat.sub_le _ _), hyinv⟩
  exact Prod.ext hxinv.symm hyinv.symm

/-! ### The identity calibration (R274) -/

theorem numeratorS64_identity (tx ty : U16) :
    numeratorS64 42000 0 0 tx ty = (tx.toNat : Int) * (42000 : BitVec 64).toInt ∧
    numeratorS64 0 42000 0 tx ty = (ty.toNat : Int) * (42000 : BitVec 64).toInt := by
  simp [numeratorS64, mul_comm]

theorem quotS64_identity (tx ty : U16) :
    quotS64 (numeratorS64 42000 0 0 tx ty) (42000 : BitVec 64).toInt = tx.toNat ∧
    quotS64 (numeratorS64 0 42000 0 tx ty) (42000 : BitVec 64).toInt = ty.toNat := by
  obtain ⟨hx, hy⟩ := numeratorS64_identity tx ty
  rw [hx, hy]
  exact ⟨quotS64_mul_self _ (by decide), quotS64_mul_self _ (by decide)⟩

/-- The u32 words are 42000 and 0 too, so their numerators are the exact ones reduced. -/
theorem numeratorU32_identity (tx ty : U16) :
    numeratorU32 0xA410 0 0 tx ty = BitVec.ofInt 32 ((tx.toNat : Int) * 42000) ∧
    numeratorU32 0 0xA410 0 tx ty = BitVec.ofInt 32 ((ty.toNat : Int) * 42000) := by
  have hx := numeratorU32_ofInt 42000 0 0 tx ty
  have hy := numeratorU32_ofInt 0 42000 0 tx ty
  rw [zero_mul, add_zero, add_zero, mul_comm] at hx
  rw [zero_mul, zero_add, add_zero, mul_comm] at hy
  exact ⟨hx, hy⟩

/-- No 16-bit coordinate times the determinant leaves 32 bits, so the u32 quotients too are the coordinates. -/
theorem quotU32_identity (tx ty : U16) :
    quotU32 (numeratorU32 0xA410 0 0 tx ty) 0xA410 = tx.setWidth 32 ∧
    quotU32 (numeratorU32 0 0xA410 0 tx ty) 0xA410 = ty.setWidth 32 := by
  obtain ⟨hx, hy⟩ := numeratorU32_identity tx ty
  rw [hx, hy]
  exact ⟨quotU32_of_pos (by decide) (by decide) (by omega), quotU32_of_pos (by decide) (by decide) (by omega)⟩

theorem toNat_setWidth_32 (v : U16) : (v.setWidth 32).toNat = v.toNat := by
  rw [BitVec.toNat_setWidth, Nat.mod_eq_of_lt (by omega)]

theorem clampS64_coord (v : U16) {dim : Nat} (h0 : 0 < dim) (h1 : dim ≤ 0x7FFF) :
    (clampS64 (v.toNat : Int) dim).toNat = min v.toNat (dim - 1) := by
  have hclamp := clampS64_toNat (v.toNat : Int) h0 h1
  split_ifs at hclamp <;> omega

theorem clampU32_coord (v : U16) {dim : Nat} (h0 : 0 < dim) (h1 : dim ≤ 0x7FFF) :
    (clampU32 (v.setWidth 32) dim).toNat = if 2 * dim ≤ v.toNat then 0 else min v.toNat (dim - 1) := by
  rw [clampU32_toNat _ h0 h1, toNat_setWidth_32, Nat.mod_eq_of_lt v.isLt]
  split_ifs <;> omega

/-- Settles O48: the quotients give back the coordinates under either arithmetic, and the clamps differ from 2·dim on. -/
theorem identityCalibration : Obligations.IdentityCalibration := by
  refine ⟨by decide, by decide, fun tx ty => ?_, fun tx ty _ _ => ?_⟩
  · obtain ⟨hsx, hsy⟩ := quotS64_identity tx ty
    obtain ⟨hux, huy⟩ := quotU32_identity tx ty
    rw [hux, huy]
    exact ⟨hsx, hsy, toNat_setWidth_32 tx, toNat_setWidth_32 ty⟩
  · obtain ⟨hsx, hsy⟩ := quotS64_identity tx ty
    obtain ⟨hux, huy⟩ := quotU32_identity tx ty
    have hdiv : (0xA410 : BitVec 64).setWidth 32 = 0xA410 := rfl
    simp only [transformX, transformY, transformAxis, hsx, hsy, hdiv, hux, huy]
    exact ⟨clampS64_coord tx (by decide) (by decide), clampS64_coord ty (by decide) (by decide),
      clampU32_coord tx (by decide) (by decide), clampU32_coord ty (by decide) (by decide)⟩

end Sys2Proof.Machine

/-! PROOFS about TOUCH_READ (R260 to R264, R272, R273): the raw sample it runs, the cache after a valid reading, then
each way out. -/

namespace Sys2Proof.Machine

/-! ### The cache after a valid reading (R263, R264) -/

/-- The x coordinate the cache holds after a valid reading (R263, R264). -/
def State.cachedX (s : State) (tx ty : U16) : U16 :=
  if s.params.cacheMode = .perAxis ∧ tx = s.st.lastTx then s.st.sxC else transformX s.params.calArith s.st.cal tx ty

/-- The y coordinate the cache holds after a valid reading (R263, R264). -/
def State.cachedY (s : State) (tx ty : U16) : U16 :=
  if s.params.cacheMode = .perAxis ∧ ty = s.st.lastTy then s.st.syC else transformY s.params.calArith s.st.cal tx ty

/-- Hit or miss, the x axis of the cache ends with the reading's raw coordinate: a hit found it there. -/
theorem updateX_eq (tx ty : U16) (s : State) :
    updateX tx ty s = s.onSt (fun b => { b with sxC := s.cachedX tx ty, lastTx := tx }) := by
  obtain ⟨hmode, rfl, e⟩ | ⟨hmiss, e⟩ := updateX_cases tx ty s <;> rw [e, State.cachedX]
  · rw [if_pos ⟨hmode, rfl⟩]; rfl
  · rw [if_neg hmiss]; rfl

/-- Hit or miss, the y axis of the cache ends with the reading's raw coordinate: a hit found it there. -/
theorem updateY_eq (tx ty : U16) (s : State) :
    updateY tx ty s = s.onSt (fun b => { b with syC := s.cachedY tx ty, lastTy := ty }) := by
  obtain ⟨hmode, rfl, e⟩ | ⟨hmiss, e⟩ := updateY_cases tx ty s <;> rw [e, State.cachedY]
  · rw [if_pos ⟨hmode, rfl⟩]; rfl
  · rw [if_neg hmiss]; rfl

/-- The block after a valid reading (R263, R264, R272). -/
def State.readBlock (s : State) (p : Byte) (tx ty : U16) : Block :=
  { s.st with lastP := p, lastTx := tx, lastTy := ty, sxC := s.cachedX tx ty, syC := s.cachedY tx ty }

/-- The point a valid reading answers (R271, R272). -/
def State.readPoint (s : State) (tx ty : U16) : U16 × U16 :=
  remap s.st.orient s.st.width s.st.height (s.cachedX tx ty) (s.cachedY tx ty)

/-- Neither axis reads what the other writes, so both are computed from the state before the reading. -/
theorem acceptReading_eq (p : Byte) (tx ty : U16) (s : State) :
    acceptReading p tx ty s = { s with
      st := s.readBlock p tx ty
      result := some (.point (s.readPoint tx ty).1 (s.readPoint tx ty).2) } := by
  rw [acceptReading, updateX_eq, updateY_eq]
  rfl

/-! ### The ways out of a read (R260 to R262, R272) -/

/-- With the display chip-select deasserted a raw sample ends in `State.sampled`, touch or none. -/
theorem rawSample_sampled {s : State} (hd : s.st.dcsN = true) : ∃ os,
    rawSample s = .noTouch (s.sampled os) ∨ ∃ p tx ty, rawSample s = .touch p tx ty (s.sampled os) := by
  rw [rawSample_eq s hd]
  split_ifs
  · exact ⟨_, .inl rfl⟩
  · exact ⟨_, .inl rfl⟩
  · exact ⟨_, .inr ⟨_, _, _, rfl⟩⟩
  · exact ⟨_, .inl rfl⟩

theorem rawSample_noTouch_sampled {s t : State} (hd : s.st.dcsN = true) (hraw : rawSample s = .noTouch t) :
    ∃ os, t = s.sampled os := by
  obtain ⟨os, e | ⟨p, tx, ty, e⟩⟩ := rawSample_sampled hd <;> cases hraw.symm.trans e
  exact ⟨os, rfl⟩

theorem rawSample_touch_sampled {s t : State} {p : Byte} {tx ty : U16} (hd : s.st.dcsN = true)
    (hraw : rawSample s = .touch p tx ty t) : ∃ os, t = s.sampled os := by
  obtain ⟨os, e | ⟨p, tx, ty, e⟩⟩ := rawSample_sampled hd <;> cases hraw.symm.trans e
  exact ⟨os, rfl⟩

section Read
variable {s t : State}

/-- The prelude admits a calibrated read in a ready block. -/
theorem exec_touchRead_ready (hs : s.Ready) : exec .touchRead s = .next (touchReadBody s).final := by
  obtain ⟨hfault, hinit, hbatch⟩ := hs
  exact congrArg Host.Outcome.next (hostOp_admitted .plain touchReadBody s hfault (.inr hinit) (.inr hbatch))

theorem exec_touchRead_uncalibrated (hs : s.Ready) (hcal : s.st.calibrated = false) :
    exec .touchRead s = .next (s.setResult .noTouch) := by
  simp [exec_touchRead_ready hs, touchReadBody, hcal]

theorem exec_touchRead_conflict (hs : s.Ready) (hcal : s.st.calibrated = true) (hd : s.st.dcsN = false) :
    exec .touchRead s = .next (s.raise .busConflict) := by
  rw [exec_touchRead_ready hs, touchReadBody, if_pos hcal, rawSample_conflict s hd, Flow.final_stop]

theorem exec_touchRead_noTouch (hs : s.Ready) (hcal : s.st.calibrated = true) (hraw : rawSample s = .noTouch t) :
    exec .touchRead s = .next (t.setResult .noTouch) := by
  rw [exec_touchRead_ready hs, touchReadBody, if_pos hcal, hraw, Flow.final_go]

/-- A valid reading: the sample leaves the cache, its inputs and the orientation as they were, so the values are those
of the state before it. -/
theorem exec_touchRead_touch {p : Byte} {tx ty : U16} (hs : s.Ready) (hcal : s.st.calibrated = true)
    (hd : s.st.dcsN = true) (hraw : rawSample s = .touch p tx ty t) :
    exec .touchRead s = .next { t with
      st := { s.readBlock p tx ty with tcsN := true, div := s.st.dispDiv }
      result := some (.point (s.readPoint tx ty).1 (s.readPoint tx ty).2) } := by
  obtain ⟨os, rfl⟩ := rawSample_touch_sampled hd hraw
  rw [exec_touchRead_ready hs, touchReadBody, if_pos hcal, hraw, Flow.final_go, acceptReading_eq]
  rfl

end Read

/-- Settles O45: the body tests `calibrated` before it samples. -/
theorem uncalibratedReadIsNoTouch : Obligations.UncalibratedReadIsNoTouch :=
  fun _ hs hcal => exec_touchRead_uncalibrated hs hcal

/-- Settles O46: the clauses are the three ways out of a calibrated read. -/
theorem calibratedReadUsesCache : Obligations.CalibratedReadUsesCache := by
  intro s hs hcal
  refine ⟨fun t hd hraw => ⟨exec_touchRead_noTouch hs hcal hraw, ?_⟩,
    fun p tx ty t hd hraw => ⟨_, _, rfl, rfl, exec_touchRead_touch hs hcal hd hraw⟩,
    exec_touchRead_conflict hs hcal⟩
  obtain ⟨os, rfl⟩ := rawSample_noTouch_sampled hd hraw
  rfl

/-! ### The round trip (R273) -/

/-- In mode exact every reading is a miss, in mode per_axis a changed raw coordinate. -/
theorem not_cacheHit {mode : CacheMode} {v last : U16} (h : mode = .exact ∨ v ≠ last) :
    ¬(mode = .perAxis ∧ v = last) := by
  rintro ⟨rfl, rfl⟩
  simp at h

theorem State.cachedX_of_miss {s : State} {tx : U16} (h : s.params.cacheMode = .exact ∨ tx ≠ s.st.lastTx) (ty : U16) :
    s.cachedX tx ty = transformX s.params.calArith s.st.cal tx ty := if_neg (not_cacheHit h)

theorem State.cachedY_of_miss {s : State} {ty : U16} (h : s.params.cacheMode = .exact ∨ ty ≠ s.st.lastTy) (tx : U16) :
    s.cachedY tx ty = transformY s.params.calArith s.st.cal tx ty := if_neg (not_cacheHit h)

/-- R243 and R244: the calibrated transform takes each raw point to its reference point, under s64 for every
determinant that is not zero, under u32 for a positive one. -/
theorem transform_target {arith : CalArith} {t : CalPoints} {l r : RawPoint} (h : (l, r) ∈ t.targets)
    (hdet : (arith = .s64 ∧ (coeffsExact t).div ≠ 0) ∨ (arith = .u32 ∧ 0 < (coeffsExact t).div ∧ t.Accepted)) :
    transformX arith (computeCal arith t) r.x r.y = l.x ∧ transformY arith (computeCal arith t) r.x r.y = l.y := by
  obtain ⟨rfl, hdiv⟩ | ⟨rfl, hdiv, ht⟩ := hdet
  · exact transform_s64_target h hdiv
  · obtain ⟨-, hu32, -⟩ := calibrationAffineLaw
    obtain ⟨hpos, -⟩ := hu32 t l r _ ht rfl h
    obtain ⟨-, -, hx, hy⟩ := hpos hdiv
    exact ⟨hx, hy⟩

/-- Settles O47: with both axes recomputed the cache holds the transform of the raw point, which `transform_target`
gives, and at 0° the remap leaves it. -/
theorem calibrationRoundTrip : Obligations.CalibrationRoundTrip := by
  intro s t p l r pts hs _ hd hcal hwords hdet htarget hmiss hraw
  obtain ⟨hx, hy⟩ := transform_target htarget hdet
  have hcx : s.cachedX r.x r.y = l.x := by
    rw [State.cachedX_of_miss (hmiss.imp_right And.left), hwords, hx]
  have hcy : s.cachedY r.x r.y = l.y := by
    rw [State.cachedY_of_miss (hmiss.imp_right And.right), hwords, hy]
  refine ⟨_, exec_touchRead_touch hs hcal hd hraw, hcx, hcy, fun hdeg0 => ?_⟩
  simp [State.readPoint, hdeg0, remap, hcx, hcy]

end Sys2Proof.Machine

/-! PROOFS about the fault (R303): what raising one does, and that a stuck block answers every instruction and every host
packet with the recorded code. An instruction is a host operation behind the prelude or a part of an operation run as a
step, so two laws of the stuck block, `hostOp_stuck` and `stepOp_stuck`, reach all of them. -/

namespace Sys2Proof.Machine

/-! ### Raising a fault -/

/-- The first fault stays on record; a later one is only the operation's outcome. -/
theorem State.raise_eq (code : FaultCode) (s : State) :
    s.raise code = { s with
      st := { s.st with fault := some (s.st.fault.getD code) }
      result := some (.faulted code), activity := .idle } := by
  unfold State.raise
  cases s.st.fault <;> rfl

/-! ### The two kinds of instruction -/

/-- Each of the host rows is a host operation, behind the prelude (R118, R304). -/
theorem exec_of_encode_host {i : Instr} {bs : List Byte} (h : encode i = .host bs) (s : State) :
    ∃ k body, exec i s = .next (hostOp k body s) := by
  cases i with
  | _ => cases h <;> exact ⟨_, _, rfl⟩

/-- Each of the init-program rows is a part of INIT (R94, R140). -/
theorem exec_of_encode_rom {i : Instr} {b : Byte} (h : encode i = .rom b) (s : State) :
    ∃ body, exec i s = .next (stepOp body s) := by
  cases i with
  | _ => cases h <;> exact ⟨_, rfl⟩

/-- Each of the touch rows is a part of a raw sample (R108). -/
theorem exec_of_encode_touch {i : Instr} {b : Byte} (h : encode i = .touch b) (s : State) :
    ∃ body, exec i s = .next (stepOp body s) := by
  cases i with
  | _ => cases h <;> exact ⟨_, rfl⟩

theorem exec_eq_hostOp_or_stepOp (i : Instr) (s : State) :
    (∃ k body, exec i s = .next (hostOp k body s)) ∨ ∃ body, exec i s = .next (stepOp body s) := by
  cases h : encode i with
  | host bs => exact .inl (exec_of_encode_host h s)
  | wire w => exact .inr ⟨_, exec_of_encode_wire h s⟩
  | rom b => exact .inr (exec_of_encode_rom h s)
  | touch b => exact .inr (exec_of_encode_touch h s)

/-! ### Instructions in a stuck block -/

section Stuck
variable {s : State} {c : FaultCode}

/-- A part of an operation in a stuck block: the outcome, and the operation is over. -/
theorem stepOp_stuck (body : State → Flow) (h : s.st.fault = some c) :
    stepOp body s = { s.setResult (.faulted c) with activity := .idle } := by
  simp [stepOp, h, State.setResult]

theorem exec_stuck (i : Instr) (h : s.st.fault = some c) :
    exec i s = .next (s.setResult (.faulted c)) ∨
      exec i s = .next { s.setResult (.faulted c) with activity := .idle } := by
  obtain ⟨k, body, hexec⟩ | ⟨body, hexec⟩ := exec_eq_hostOp_or_stepOp i s
  · rw [hexec, hostOp_stuck k body s c h]
    exact .inl rfl
  · rw [hexec, stepOp_stuck body h]
    exact .inr rfl

/-- Between operations there is no operation to end, so the two kinds of instruction answer alike. -/
theorem exec_stuck_idle (i : Instr) (h : s.st.fault = some c) (hidle : s.activity = .idle) :
    exec i s = .next (s.setResult (.faulted c)) := by
  have hkept : { s.setResult (.faulted c) with activity := .idle } = s.setResult (.faulted c) := by
    rw [← hidle]; rfl
  simpa only [hkept, or_self] using exec_stuck i h

/-- A packet the decoder rejects is a host operation too, unless it is a touch byte. -/
theorem rejectPacket_stuck {e : DecodeError} (he : ∀ b, e ≠ .touchByteNotSent b) (h : s.st.fault = some c) :
    rejectPacket e s = .next (s.setResult (.faulted c)) := by
  cases e with
  | touchByteNotSent b => exact absurd rfl (he b)
  | _ => exact congrArg Host.Outcome.next (hostOp_stuck _ _ s c h)

end Stuck

/-! ### Packets in a stuck block -/

/-- A step of an idle block whose oldest packet decodes runs its instruction (R71). -/
theorem step_idle_ok {s : State} {p : Packet} {rest : List Packet} {i : Instr} (hidle : s.activity = .idle)
    (hissue : s.issue = p :: rest) (hdec : decode p.code = .ok i) : step s = exec i { s with issue := rest } := by
  simp only [step, fetch, fetchPacket, hidle, hissue, hdec]

/-- A step of an idle block whose oldest packet the decoder rejects. -/
theorem step_idle_error {s : State} {p : Packet} {rest : List Packet} {e : DecodeError} (hidle : s.activity = .idle)
    (hissue : s.issue = p :: rest) (hdec : decode p.code = .error e) :
    step s = rejectPacket e { s with issue := rest } := by
  simp only [step, fetch, fetchPacket, hidle, hissue, hdec]

/-- A host packet is never rejected as a touch byte: each of the decoder's ways out is an instruction or an error of the
host space. -/
theorem decodeHost_ne_touchByteNotSent (bs : List Byte) (b : Byte) : decodeHost bs ≠ .error (.touchByteNotSent b) := by
  cases bs with
  | nil => nofun
  | cons op args =>
    rw [decodeHost]
    fun_cases decodeOperands op args <;> nofun

theorem step_host_stuck {s : State} {c : FaultCode} {bs : List Byte} {rest : List Packet} (h : s.st.fault = some c)
    (hidle : s.activity = .idle) (hissue : s.issue = .host bs :: rest) :
    step s = .next (({ s with issue := rest } : State).setResult (.faulted c)) := by
  cases hdec : decodeHost bs with
  | ok i =>
    rw [step_idle_ok hidle hissue hdec]
    exact exec_stuck_idle i h hidle
  | error e =>
    have he : ∀ b, e ≠ .touchByteNotSent b := by
      rintro b rfl
      exact decodeHost_ne_touchByteNotSent bs b hdec
    rw [step_idle_error hidle hissue hdec]
    exact rejectPacket_stuck he h

/-- Settles O17: the raise by `State.raise_eq`, the stuck block by `exec_stuck` for an instruction and `step_host_stuck`
for a packet. -/
theorem faultIsStickyAndTerminal : Obligations.FaultIsStickyAndTerminal := by
  refine ⟨fun s code => State.raise_eq code s, fun s c i h => ?_, fun s c bs rest h hidle hissue =>
    step_host_stuck h hidle hissue⟩
  obtain hexec | hexec := exec_stuck i h <;>
    exact ⟨_, hexec, rfl, rfl, rfl, rfl, rfl, rfl⟩

end Sys2Proof.Machine

/-! PROOFS about the encodings (30_encoding.md): decoder and encoder are inverse to each other, space by space. -/

namespace Sys2Proof

/-! ### The wire words (R90, R96) -/

theorem word9_msb_payload (w : Word9) : word9 w.msb (w.extractLsb' 0 8) = w := by
  rw [← BitVec.setWidth_eq_extractLsb' (by decide)]
  exact BitVec.cons_msb_setWidth w

theorem decodeWire_word9 (dcx : Bool) (b : Byte) :
    decodeWire (word9 dcx b) = if dcx then .data b else decodeCommand b := by
  rw [decodeWire, Machine.word9_msb, Machine.word9_payload]

/-- A byte without a row of its own is read as C (R96). -/
theorem decodeCommand_unnamed {b : Byte} (h : namedCommandBytes.contains b = false) : decodeCommand b = .cmd b := by
  unfold decodeCommand
  split
  case h_30 => rfl
  all_goals cases h

/-- A command byte's instruction is well-formed, and its word is the byte's. -/
theorem encode_decodeCommand (b : Byte) :
    WellFormed (decodeCommand b) = true ∧ encode (decodeCommand b) = .wire (word9 false b) := by
  unfold decodeCommand
  split
  case h_30 => simp_all [WellFormed, namedCommandBytes, encode]
  all_goals exact ⟨rfl, rfl⟩

theorem encode_decodeWire (w : Word9) : WellFormed (decodeWire w) = true ∧ encode (decodeWire w) = .wire w := by
  have hw := word9_msb_payload w
  rw [decodeWire]
  split
  · next hdcx => exact ⟨rfl, by rw [encode, ← hdcx, hw]⟩
  · next hdcx =>
    rw [Bool.not_eq_true] at hdcx
    rw [hdcx] at hw
    simpa only [hw] using encode_decodeCommand (w.extractLsb' 0 8)

/-! ### The init-program bytes (R94) -/

/-- A byte with kind bits other than 11 is not 0xFF. -/
theorem ne_0xFF_of_kind {k : BitVec 2} (hk : k ≠ 0b11) (n : BitVec 6) : (k ++ n : Byte) ≠ 0xFF := by
  intro h
  have hkind := congrArg (BitVec.extractLsb' 6 2) h
  rw [BitVec.extractLsb'_append_eq_left] at hkind
  exact hk hkind

theorem decodeRom_dataRun (n : BitVec 6) : decodeRom (0b10#2 ++ n) = .dataRun n := by
  rw [decodeRom, if_neg (ne_0xFF_of_kind (by decide) n), BitVec.extractLsb'_append_eq_left, if_pos (by rfl),
    BitVec.extractLsb'_append_eq_right]

theorem decodeRom_cmdRun (n : BitVec 6) : decodeRom (0b01#2 ++ n) = .cmdRun n := by
  rw [decodeRom, if_neg (ne_0xFF_of_kind (by decide) n), BitVec.extractLsb'_append_eq_left, if_neg (by decide),
    if_pos (by rfl), BitVec.extractLsb'_append_eq_right]

/-- A byte is reserved where its kind is neither of the two runs' and it is not END (R94). -/
theorem isReservedInit_iff {b : Byte} : isReservedInit b = true ↔
    b ≠ 0xFF ∧ b.extractLsb' 6 2 ≠ 0b10 ∧ b.extractLsb' 6 2 ≠ 0b01 := by
  have hkinds : ∀ k : BitVec 2, (k == 0b00 || k == 0b11) = true ↔ k ≠ 0b10 ∧ k ≠ 0b01 := by decide
  rw [isReservedInit, Bool.and_eq_true, hkinds, bne_iff_ne]

theorem decodeRom_reserved {b : Byte} (h : isReservedInit b = true) : decodeRom b = .reservedInit b := by
  obtain ⟨hend, hdata, hcmd⟩ := isReservedInit_iff.mp h
  rw [decodeRom, if_neg hend, if_neg hdata, if_neg hcmd]

/-- Every init-program byte is END, one of the two runs with its count, or reserved: the four tests of R94. -/
theorem initByte_cases (b : Byte) :
    b = 0xFF ∨ (∃ n : BitVec 6, b = 0b10#2 ++ n) ∨ (∃ n : BitVec 6, b = 0b01#2 ++ n) ∨ isReservedInit b = true := by
  have hfields : b.extractLsb' 6 2 ++ b.extractLsb' 0 6 = b := BitVec.extractLsb'_append_extractLsb'
  by_cases hend : b = 0xFF
  · exact .inl hend
  by_cases hdata : b.extractLsb' 6 2 = 0b10
  · exact .inr (.inl ⟨_, by rw [← hfields, hdata]; rfl⟩)
  by_cases hcmd : b.extractLsb' 6 2 = 0b01
  · exact .inr (.inr (.inl ⟨_, by rw [← hfields, hcmd]; rfl⟩))
  · exact .inr (.inr (.inr (isReservedInit_iff.mpr ⟨hend, hdata, hcmd⟩)))

theorem encode_decodeRom (b : Byte) : WellFormed (decodeRom b) = true ∧ encode (decodeRom b) = .rom b := by
  obtain rfl | ⟨n, rfl⟩ | ⟨n, rfl⟩ | hres := initByte_cases b
  · exact ⟨rfl, rfl⟩
  · rw [decodeRom_dataRun]; exact ⟨rfl, rfl⟩
  · rw [decodeRom_cmdRun]; exact ⟨rfl, rfl⟩
  · rw [decodeRom_reserved hres]; exact ⟨hres, rfl⟩

theorem kind_append_toNat (k : BitVec 2) (n : BitVec 6) : (k ++ n : Byte).toNat = k.toNat * 64 + n.toNat := by
  rw [BitVec.toNat_append, ← Nat.shiftLeft_add_eq_or_of_lt n.isLt, Nat.shiftLeft_eq]

/-- Settles O5: the kind and the count of a byte are its quotient and its remainder by 64. -/
theorem initByteDecoding : Obligations.InitByteDecoding := by
  intro b
  have hkind : (b.extractLsb' 6 2).toNat = b.toNat / 64 := by
    rw [BitVec.extractLsb'_toNat, Nat.shiftRight_eq_div_pow]; omega
  have hreserved (hne : b ≠ 0xFF) (h : b.toNat ≤ 0x3F ∨ 0xC0 ≤ b.toNat) : decodeRom b = .reservedInit b :=
    decodeRom_reserved (isReservedInit_iff.mpr ⟨hne, by bv_omega, by bv_omega⟩)
  have hrun (k : BitVec 2) (hlo : k.toNat * 64 ≤ b.toNat) (hhi : b.toNat < k.toNat * 64 + 64) :
      b = (k ++ BitVec.ofNat 6 (b.toNat - k.toNat * 64) : Byte) := by
    apply BitVec.eq_of_toNat_eq
    rw [kind_append_toNat, BitVec.toNat_ofNat]
    omega
  refine ⟨fun h => h ▸ rfl, fun hlo hhi => ?_, fun hlo hhi => ?_, fun hhi => hreserved (by bv_omega) (.inl hhi),
    fun hlo hhi => hreserved (by bv_omega) (.inr hlo)⟩
  · exact (congrArg decodeRom (hrun 0b10 hlo (Nat.lt_succ_of_le hhi))).trans (decodeRom_dataRun _)
  · exact (congrArg decodeRom (hrun 0b01 hlo (Nat.lt_succ_of_le hhi))).trans (decodeRom_cmdRun _)

/-! ### The host packets (R118) -/

/-- What an operation's bytes decode to is well-formed, and encodes to them: no operand byte has spare bits. -/
theorem encode_of_decodeOperands {op : Byte} {args : List Byte} {i : Instr} (h : decodeOperands op args = .ok i) :
    WellFormed i = true ∧ encode i = .host (op :: args) := by
  have hdiv (k : Byte) (hk : k.toNat < 8) : (k.setWidth 3).setWidth 8 = k := by bv_omega
  have hbit (v : Byte) (hv : v.toNat < 2) : (BitVec.ofBool v[0]).setWidth 8 = v := by
    obtain rfl | rfl : v = 0 ∨ v = 1 := by bv_omega
    all_goals rfl
  revert h
  fun_cases decodeOperands op args <;> intro h <;> cases h
  all_goals refine ⟨rfl, ?_⟩
  all_goals simp [encode, bytesOf, *]

/-! ### The round trips -/

/-- Settles O4: space by space. -/
theorem encodeOfDecode : Obligations.EncodeOfDecode := by
  intro c i h
  cases c with
  | wire w => cases h; exact encode_decodeWire w
  | rom b => cases h; exact encode_decodeRom b
  | touch b =>
    obtain ⟨rfl, rfl⟩ | ⟨rfl, rfl⟩ | ⟨rfl, rfl⟩ | ⟨rfl, rfl⟩ := decodeTouch_eq_ok_iff.mp h <;> exact ⟨rfl, rfl⟩
  | host bs =>
    cases bs with
    | nil => cases h
    | cons op args => exact encode_of_decodeOperands h

/-- Settles O3: the instructions whose decoding is not a computation are those with operands. -/
theorem decodeOfEncode : Obligations.DecodeOfEncode := by
  intro i hwf
  cases i with
  | cmd b =>
    have hunnamed : namedCommandBytes.contains b = false := by simpa only [WellFormed, Bool.not_eq_true'] using hwf
    exact congrArg Except.ok ((decodeWire_word9 false b).trans (decodeCommand_unnamed hunnamed))
  | data b => exact congrArg Except.ok (decodeWire_word9 true b)
  | dataRun n => exact congrArg Except.ok (decodeRom_dataRun n)
  | cmdRun n => exact congrArg Except.ok (decodeRom_cmdRun n)
  | reservedInit b => exact congrArg Except.ok (decodeRom_reserved hwf)
  | initBlock k =>
    have hk : k.toNat % 256 < 8 := by have := k.isLt; omega
    simp [encode, decode, decodeHost, decodeOperands, hk]
  | setInverted inv => cases inv <;> rfl
  | sendData16 | batchStart | batchDraw | drawPixel | fillRect | fillScreen | touchCalibrate =>
    simp [encode, bytesOf, decode, decodeHost, decodeOperands]
  | _ => rfl

/-- Settles O2: each is a computation of the decoder. -/
theorem decodesWordsOfTheTables : Obligations.DecodesWordsOfTheTables := by
  refine ⟨?_, ?_, ?_, ?_, ?_, ?_, ?_, ?_, ?_, ?_⟩ <;> rfl

end Sys2Proof

/-! PROOFS about fetching and the prelude (R71, R140, R304): what a step can be, said once, and the prelude's checks for
every host packet, by the operation class of its identifier. -/

namespace Sys2Proof.Machine

/-! ### What a step can be -/

theorem step_idle_nothing {s : State} (hidle : s.activity = .idle) (hissue : s.issue = []) : step s = .next s := by
  simp only [step, fetch, fetchPacket, hidle, hissue]

theorem step_initProgram_byte {s : State} {b : Byte} (hact : s.activity = .initProgram)
    (hread : s.rom.read s.st.ip = some b) :
    step s = exec (decodeRom b) (s.onSt (fun st => { st with ip := st.ip + 1 })) := by
  have hfetch : fetchRom s = .run (decodeRom b) (s.onSt (fun st => { st with ip := st.ip + 1 })) := by
    rw [fetchRom, hread]; rfl
  simp only [step, fetch, hact, hfetch]

theorem step_initProgram_end {s : State} (hact : s.activity = .initProgram) (hread : s.rom.read s.st.ip = none) :
    step s = .next (stepOp (fail .badInitProgram) s) := by
  simp only [step, fetch, fetchRom, hact, hread]

theorem step_initTail {s : State} (hact : s.activity = .initTail) : step s = .next (stepOp initTailBody s) := by
  simp only [step, fetch, hact, initTailStep]

theorem step_polling {s : State} {fg bg : U16} (hact : s.activity = .polling fg bg) : step s = pollStep fg bg s := by
  simp only [step, fetch, hact]

/-- Settles O1: each clause is one way out of the fetch. -/
theorem stepRunsFetchedInstruction : Obligations.StepRunsFetchedInstruction := by
  refine fun s => ⟨fun p rest i hidle hissue hdec => step_idle_ok hidle hissue hdec, step_idle_nothing,
    fun b hact hread => step_initProgram_byte hact hread, fun hact hread hfault => ?_⟩
  rw [step_initProgram_end hact hread, stepOp_admitted _ _ hfault, fail, Flow.final_stop]

/-- A touch byte is rejected where it is none of the four, and as a byte never sent (R110). -/
theorem decodeTouch_eq_error {b : Byte} {e : DecodeError} (h : decodeTouch b = .error e) :
    e = .touchByteNotSent b ∧ b ≠ 0xB8 ∧ b ≠ 0xC8 ∧ b ≠ 0xD0 ∧ b ≠ 0x90 := by
  unfold decodeTouch at h
  split at h <;> cases h
  exact ⟨rfl, by assumption, by assumption, by assumption, by assumption⟩

/-- A rejected host packet is a host operation that faults, behind the prelude of its identifier's class (R304). -/
theorem rejectPacket_of_decodeHost {bs : List Byte} {e : DecodeError} (h : decodeHost bs = .error e) (s : State) :
    ∃ k code, rejectPacket e s = .next (hostOp k (fail code) s) := by
  cases e with
  | touchByteNotSent b => exact absurd h (decodeHost_ne_touchByteNotSent bs b)
  | _ => exact ⟨_, _, rfl⟩

/-- Everything a step can be: nothing issued, an instruction, a packet the decoder rejects, the ROM's end, INIT's last
part, a poll, or one of the two stops. -/
inductive StepCase (s : State) : Prop where
  | waits (hidle : s.activity = .idle) (hissue : s.issue = []) (hstep : step s = .next s)
  | packet (p : Packet) (rest : List Packet) (i : Instr) (hidle : s.activity = .idle) (hissue : s.issue = p :: rest)
      (hcode : encode i = p.code) (hstep : step s = exec i { s with issue := rest })
  | rejected (bs : List Byte) (rest : List Packet) (k : OpClass) (code : FaultCode) (hidle : s.activity = .idle)
      (hissue : s.issue = .host bs :: rest) (hstep : step s = .next (hostOp k (fail code) { s with issue := rest }))
  | notSent (b : Byte) (rest : List Packet) (hidle : s.activity = .idle) (hissue : s.issue = .touch b :: rest)
      (hbyte : b ≠ 0xB8 ∧ b ≠ 0xC8 ∧ b ≠ 0xD0 ∧ b ≠ 0x90) (hstep : step s = .refused (.touchByteNotSent b))
  | romByte (b : Byte) (hact : s.activity = .initProgram) (hread : s.rom.read s.st.ip = some b)
      (hstep : step s = exec (decodeRom b) (s.onSt (fun st => { st with ip := st.ip + 1 })))
  | romEnd (hact : s.activity = .initProgram) (hstep : step s = .next (stepOp (fail .badInitProgram) s))
  | initTail (hact : s.activity = .initTail) (hstep : step s = .next (stepOp initTailBody s))
  | poll (fg bg : U16) (hact : s.activity = .polling fg bg) (hi : s.st.calI ≤ 2)
      (hstep : step s = .next (stepOp (pollBody fg bg) s))
  | noPoint (fg bg : U16) (hact : s.activity = .polling fg bg) (hi : 2 < s.st.calI)
      (hstep : step s = .fault .calIndexOutOfRange)

theorem step_case (s : State) : StepCase s := by
  cases hact : s.activity with
  | idle =>
    cases hissue : s.issue with
    | nil => exact .waits hact hissue (step_idle_nothing hact hissue)
    | cons p rest =>
      cases hdec : decode p.code with
      | ok i => exact .packet p rest i hact hissue (encodeOfDecode _ _ hdec).2 (step_idle_ok hact hissue hdec)
      | error e =>
        have hstep := step_idle_error hact hissue hdec
        cases p with
        | host bs =>
          obtain ⟨k, code, hrej⟩ := rejectPacket_of_decodeHost hdec { s with issue := rest }
          exact .rejected bs rest k code hact hissue (hstep.trans hrej)
        | wire w => cases hdec
        | touch b =>
          obtain ⟨rfl, hbyte⟩ := decodeTouch_eq_error hdec
          exact .notSent b rest hact hissue hbyte hstep
  | initProgram =>
    cases hread : s.rom.read s.st.ip with
    | some b => exact .romByte b hact hread (step_initProgram_byte hact hread)
    | none => exact .romEnd hact (step_initProgram_end hact hread)
  | initTail => exact .initTail hact (step_initTail hact)
  | polling fg bg =>
    have hstep := step_polling hact
    unfold pollStep at hstep
    split at hstep
    · next hi => exact .poll fg bg hact hi hstep
    · next hi => exact .noPoint fg bg hact (Nat.lt_of_not_le hi) hstep

/-- Every instruction answers a next state. -/
theorem exec_next (i : Instr) (s : State) : ∃ t, exec i s = .next t := by
  obtain ⟨_, _, h⟩ | ⟨_, h⟩ := exec_eq_hostOp_or_stepOp i s <;> exact ⟨_, h⟩

/-- Settles O55: of what a step can be, two stop; the invariant shuts out the poll without a point. -/
theorem stepAlwaysAnswersNext : Obligations.StepAlwaysAnswersNext := by
  intro s hinv
  cases step_case s with
  | waits _ _ hstep => exact .inl ⟨_, hstep⟩
  | packet p rest i _ _ _ hstep => exact .inl (hstep ▸ exec_next i _)
  | rejected _ _ _ _ _ _ hstep => exact .inl ⟨_, hstep⟩
  | notSent b rest hidle hissue hbyte hstep =>
    obtain ⟨h1, h2, h3, h4⟩ := hbyte
    exact .inr ⟨b, rest, hidle, hissue, h1, h2, h3, h4, hstep⟩
  | romByte b _ _ hstep => exact .inl (hstep ▸ exec_next _ _)
  | romEnd _ hstep => exact .inl ⟨_, hstep⟩
  | initTail _ hstep => exact .inl ⟨_, hstep⟩
  | poll _ _ _ _ hstep => exact .inl ⟨_, hstep⟩
  | noPoint fg bg hact hi _ =>
    have hok := hinv.activityOk
    rw [State.ActivityOk, hact] at hok
    obtain ⟨_, _, _, _, _, hle⟩ := hok
    omega

/-! ### The prelude by the identifier (R304) -/

theorem classOf_eq_init_iff {op : Byte} : classOf op = .init ↔ op = 0x01 := by
  unfold classOf
  split <;> simp_all

theorem classOf_eq_batch_iff {op : Byte} : classOf op = .batch ↔ op = 0x0A ∨ op = 0x0B := by
  unfold classOf
  split <;> simp_all

/-- The class an instruction's operation has is that of its identifier. -/
theorem exec_of_encode_host_class {i : Instr} {op : Byte} {args : List Byte} (h : encode i = .host (op :: args))
    (s : State) : ∃ body, exec i s = .next (hostOp (classOf op) body s) := by
  cases i with
  | _ => cases h <;> exact ⟨_, rfl⟩

/-- An identifier outside the table spells no operation (R118). -/
theorem decodeOperands_unknown {op : Byte} (h : ¬(0x01 ≤ op.toNat ∧ op.toNat ≤ 0x12)) (args : List Byte) :
    decodeOperands op args = .error (.unknownOp op) := by
  unfold decodeOperands
  split
  case h_19 => rfl
  all_goals exact absurd (by decide) h

/-- The class a rejected packet's operation has is that of its identifier; an unknown one is a plain operation. -/
theorem rejectPacket_class {op : Byte} {args : List Byte} {e : DecodeError} (h : decodeOperands op args = .error e)
    (s : State) : ∃ body, rejectPacket e s = .next (hostOp (classOf op) body s) := by
  revert h
  fun_cases decodeOperands op args <;> intro h <;> cases h
  case case39.refl =>
    have hplain : classOf op = .plain := by unfold classOf; split <;> trivial
    exact ⟨fail .refused, by rw [hplain]; rfl⟩
  all_goals exact ⟨_, rfl⟩

/-- Every host packet with an identifier is a host operation of its class, well-formed or not. -/
theorem step_host_class {s : State} {op : Byte} {args : List Byte} {rest : List Packet} (hidle : s.activity = .idle)
    (hissue : s.issue = .host (op :: args) :: rest) :
    ∃ body, step s = .next (hostOp (classOf op) body { s with issue := rest }) := by
  cases hdec : decodeOperands op args with
  | ok i =>
    rw [step_idle_ok hidle hissue hdec]
    exact exec_of_encode_host_class (encode_of_decodeOperands hdec).2 _
  | error e =>
    rw [step_idle_error hidle hissue hdec]
    exact rejectPacket_class hdec _

/-- The prelude's third check (R304). -/
theorem hostOp_inBatch {k : OpClass} (body : State → Flow) {s : State} (hfault : s.st.fault = none)
    (hinit : k = .init ∨ s.st.initDone = true) (hbatch : s.st.inBatch = true) (hk : k ≠ .batch) :
    hostOp k body s = s.raise .batch := by
  cases k <;> simp_all [hostOp]

/-- Settles O16: the packet is a host operation of its identifier's class, and each check is one way out of the
prelude. -/
theorem preludeChecksInOrder : Obligations.PreludeChecksInOrder := by
  intro s op args rest hidle hissue
  obtain ⟨body, hstep⟩ := step_host_class hidle hissue
  refine ⟨fun c hfault => step_host_stuck hfault hidle hissue, fun hfault hop hinit => ?_,
    fun hfault hinit hbatch hdraw hstop => ?_, fun hfault hinit hbatch hop => ?_⟩
  · exact hstep.trans (congrArg Host.Outcome.next
      (hostOp_notInit _ body { s with issue := rest } hfault (by rwa [ne_eq, classOf_eq_init_iff]) hinit))
  · exact hstep.trans (congrArg Host.Outcome.next
      (hostOp_inBatch (s := { s with issue := rest }) body hfault (by rwa [classOf_eq_init_iff]) hbatch
        (by rw [ne_eq, classOf_eq_batch_iff]; tauto)))
  · rw [step_idle_error hidle hissue (decodeOperands_unknown hop args)]
    exact congrArg Host.Outcome.next (hostOp_admitted .plain _ { s with issue := rest } hfault (.inr hinit) (.inr hbatch))

/-- Settles O60: at power-on the prelude's second check stops every operation but INIT. -/
theorem powerOnValues : Obligations.PowerOnValues := by
  refine ⟨rfl, rfl, rfl, rfl, rfl, rfl, fun b i hinit hfault hspace hne => ?_⟩
  cases i with
  | initBlock k => exact absurd rfl (hne k)
  | _ => cases hspace <;> exact congrArg Host.Outcome.next (hostOp_notInit _ _ _ hfault (by decide) hinit)

end Sys2Proof.Machine

/-! PROOFS about words (R133, R60, R65, R75): what a word instruction sends, how the three levels of the record agree,
and the controller's window parameters. -/

namespace Sys2Proof.Machine

/-! ### The word instructions (R133) -/

/-- A wire instruction with the display released: its word's fault, before any pin is touched. -/
theorem exec_wire_released {i : Instr} {w : Word9} {s : State} (h : encode i = .wire w) (hfault : s.st.fault = none)
    (hd : s.st.dcsN = true) : exec i s = .next (s.raise .bracket) := by
  rw [exec_of_encode_wire h, stepOp_admitted _ _ hfault, word_stop _ _ _ hd, Flow.final_stop]

/-- Settles O7: by `exec_wire_selected` inside a bracket, by `exec_wire_released` outside one. -/
theorem wireWordSendsItsNineBits : Obligations.WireWordSendsItsNineBits :=
  fun _ _ _ _ henc hfault => ⟨fun hd => exec_wire_selected henc ⟨hfault, hd⟩, exec_wire_released henc hfault⟩

/-! ### The levels of the record (R60, R65) -/

/-- A pin-level event that is no MOSI write begins no word. -/
theorem collapse_cons {e : WireEvent} (h : ∀ v, e ≠ .mosi v) (es : List WireEvent) :
    collapse (e :: es) = .ev e :: collapse es := by
  cases e with
  | mosi v => exact absurd rfl (h v)
  | _ => rfl

/-- A word-level record with no bare MOSI write is what its pin-level expansion reads as (R133). -/
theorem collapse_expand {es : List WordEvent} (h : ∀ v, WordEvent.ev (.mosi v) ∉ es) (d : Nat) :
    collapse (expand es d) = es := by
  induction es generalizing d with
  | nil => rfl
  | cons e es ih =>
    have htail : ∀ v, WordEvent.ev (.mosi v) ∉ es := fun v hv => h v (List.mem_cons_of_mem _ hv)
    cases e with
    | w9 dcx b => exact congrArg (WordEvent.w9 dcx b :: ·) (ih htail (d + 1))
    | ev e =>
      have hhead : ∀ v, e ≠ .mosi v := fun v hv => h v (hv ▸ List.mem_cons_self)
      rw [expand, collapse_cons hhead, ih htail]

theorem serialBits_msbFirst (b : Byte) : serialBits .msbFirst b = [7, 6, 5, 4, 3, 2, 1, 0].map b.getLsbD := rfl

/-- The nine bits of a word: D/CX at bit 8, the payload below it (R90). -/
theorem word9_bits (dcx : Bool) (b : Byte) :
    [8, 7, 6, 5, 4, 3, 2, 1, 0].map (word9 dcx b).getLsbD = dcx :: serialBits .msbFirst b := by
  simp [word9, BitVec.getElem_cons, serialBits]

/-- What words clock, MSB first: their nine bits, and the order stays (R65, R131). -/
theorem clocked_words (ws : List (Bool × Byte)) {l : Line} (d : Nat) (hl : l.order = .msbFirst) :
    (l.clocked (expand (asEvents ws) d)).map Prod.fst
      = ws.flatMap (fun w => [8, 7, 6, 5, 4, 3, 2, 1, 0].map (word9 w.1 w.2).getLsbD) := by
  induction ws generalizing l d with
  | nil => rfl
  | cons w ws ih =>
    have hword : ((l.clocked (wordExpansion w.1 w.2 (Config.freeByte d))).map Prod.fst)
        = w.1 :: serialBits .msbFirst w.2 := by
      rw [Line.clocked_wordExpansion, hl]; rfl
    rw [List.flatMap_cons, word9_bits, ← hword, ← ih (l := { l with spe := true, mosi := w.1, sck := true }) (d + 1) hl]
    rw [← List.map_append, ← Line.after_wordExpansion l w.1 w.2 (Config.freeByte d), ← Line.clocked_append]
    rfl

/-- What exchanges clock, MSB first: the bits of each byte sent, each with the same bit of the byte received (R65). -/
theorem clocked_exchanges (xs : List (Byte × Byte)) {l : Line} (hl : l.order = .msbFirst) :
    l.clocked (xs.map (fun x => .x8 x.1 x.2))
      = xs.flatMap (fun x => [7, 6, 5, 4, 3, 2, 1, 0].map (fun k => (x.1.getLsbD k, some (x.2.getLsbD k)))) := by
  induction xs with
  | nil => rfl
  | cons x xs ih =>
    have hbits : l.bits (.x8 x.1 x.2)
        = [7, 6, 5, 4, 3, 2, 1, 0].map (fun k => (x.1.getLsbD k, some (x.2.getLsbD k))) := by
      rw [Line.bits, hl]; rfl
    rw [List.map_cons, Line.clocked, hbits, List.flatMap_cons, ← ih]
    rfl

/-- Settles O9. -/
theorem recordLevelsAgree : Obligations.RecordLevelsAgree :=
  ⟨fun _ d h => collapse_expand h d, fun _ ws d hl => clocked_words ws d hl, fun _ xs hl => clocked_exchanges xs hl⟩

/-! ### The window parameters (R75) -/

theorem Ctl.columnData_fourth {c : Ctl} {b0 b1 b2 : Byte} (b : Byte) (hbuf : c.pbuf = [b0, b1, b2])
    (hcount : c.pcount = c.pbuf.length) : c.columnData b =
      { c with pbuf := [b0, b1, b2, b], pcount := 4, xs := joinBytes b0 b1, xe := joinBytes b2 b } := by
  simp [Ctl.columnData, Ctl.pushParam, hbuf, hcount]

theorem Ctl.pageData_fourth {c : Ctl} {b0 b1 b2 : Byte} (b : Byte) (hbuf : c.pbuf = [b0, b1, b2])
    (hcount : c.pcount = c.pbuf.length) : c.pageData b =
      { c with pbuf := [b0, b1, b2, b], pcount := 4, ys := joinBytes b0 b1, ye := joinBytes b2 b } := by
  simp [Ctl.pageData, Ctl.pushParam, hbuf, hcount]

theorem Ctl.columnData_other {c : Ctl} (b : Byte) (h : c.pcount ≠ 3) : c.columnData b = c.pushParam b := by
  unfold Ctl.columnData
  dsimp only
  split
  · next hcount _ => exact absurd (Nat.succ.inj hcount) h
  · rfl

theorem Ctl.pageData_other {c : Ctl} (b : Byte) (h : c.pcount ≠ 3) : c.pageData b = c.pushParam b := by
  unfold Ctl.pageData
  dsimp only
  split
  · next hcount _ => exact absurd (Nat.succ.inj hcount) h
  · rfl

/-- Settles O13: the fourth word sets the columns or the rows, every other is stored and counted. -/
theorem windowParameterWords : Obligations.WindowParameterWords := by
  intro b s hs hcount
  obtain ⟨t, hexec, hctl⟩ := exec_data_selected (b := b) hs
  refine ⟨t, hexec, fun b0 b1 b2 hcmd hbuf => ?_, fun b0 b1 b2 hcmd hbuf => ?_, fun hcmd h3 => ?_⟩
  · rw [hctl, Ctl.dataWord_column b hcmd, Ctl.columnData_fourth b hbuf hcount]
  · rw [hctl, Ctl.dataWord_page b hcmd, Ctl.pageData_fourth b hbuf hcount]
  · obtain hcmd | hcmd := hcmd
    · rw [hctl, Ctl.dataWord_column b hcmd, Ctl.columnData_other b h3, Ctl.pushParam]
    · rw [hctl, Ctl.dataWord_page b hcmd, Ctl.pageData_other b h3, Ctl.pushParam]

/-! ### Power-on (R35) -/

/-- Settles O11: nothing is on the record and both chip-selects are released. -/
theorem resetMeetsFramingLaw : Obligations.ResetMeetsFramingLaw := ⟨rfl, rfl⟩

/-- Settles O53: most items are computations; those that presuppose INIT or a calibration are void at power-on. -/
theorem resetMeetsInvariant : Obligations.ResetMeetsInvariant where
  romWf := rfl
  controller := Ctl.powerOn_ok
  engineOn := nofun
  msbFirst := nofun
  touchReleased := rfl
  divisorRestored := rfl
  batchSelected := nofun
  dimsAgree := ⟨rfl, rfl⟩
  denominator := nofun
  cacheX := fun h => absurd rfl h
  cacheY := fun h => absurd rfl h
  activityOk := trivial

end Sys2Proof.Machine

/-! PROOFS about touch commands run as steps, and about the answers a raw read discards (R200 to R210). -/

namespace Sys2Proof.Machine

/-! ### A touch command as a step of its own (R108, R202, R205) -/

/-- A touch command with the display released: its conversion and the value it read. -/
theorem stepOp_touchStep_go (conversion : State → U16 × State) {s : State} (hfault : s.st.fault = none)
    (hd : s.st.dcsN = true) :
    stepOp (touchStep conversion) s = (conversion s).2.setResult (.sample (conversion s).1) := by
  rw [stepOp_admitted _ _ hfault, touchStep, if_pos hd, Flow.final_go]

/-- A touch command with the display selected is a bus conflict (R81). -/
theorem stepOp_touchStep_conflict (conversion : State → U16 × State) {s : State} (hfault : s.st.fault = none)
    (hd : s.st.dcsN = false) : stepOp (touchStep conversion) s = s.raise .busConflict := by
  rw [stepOp_admitted _ _ hfault, touchStep, if_neg (by simp [hd]), fail, Flow.final_stop]

/-- An 8-bit conversion while the ADC listens (R202). -/
theorem conversion8_listening (cmd : Byte) {s : State} (h : s.st.tcsN = false) :
    conversion8 cmd s = ((adcByte s 1).setWidth 16, exchanges [cmd, s.params.touchFill] s) := by
  rw [conversion8, sample8_eq cmd s h]

/-- Settles O32: the conversion is a run of exchanges, and its value that of the answers at their numbers. -/
theorem touchCommandsConvert : Obligations.TouchCommandsConvert := by
  intro s hfault
  refine ⟨fun hd hlisten => ⟨fun i cmd hmem => ?_, fun i cmd hmem => ?_⟩, fun hd i hmem => ?_⟩
  · have hexec : exec i s = .next (stepOp (touchStep (conversion8 cmd)) s) := by
      simp only [List.mem_cons, Prod.mk.injEq, List.not_mem_nil, or_false] at hmem
      obtain ⟨rfl, rfl⟩ | ⟨rfl, rfl⟩ := hmem
      · rw [← touchByteZ1_eq]; rfl
      · rw [← touchByteZ2_eq]; rfl
    rw [hexec, stepOp_touchStep_go _ hfault hd, conversion8_listening cmd hlisten, exchanges_listening _ s hlisten]
    rfl
  · have hexec : exec i s = .next (stepOp (touchStep (sampleAxis cmd)) s) := by
      simp only [List.mem_cons, Prod.mk.injEq, List.not_mem_nil, or_false] at hmem
      obtain ⟨rfl, rfl⟩ | ⟨rfl, rfl⟩ := hmem
      · rw [← touchByteX_eq]; rfl
      · rw [← touchByteY_eq]; rfl
    rw [hexec, stepOp_touchStep_go _ hfault hd, sampleAxis_eq cmd s hlisten, exchanges_listening _ s hlisten, axisAt_eq]
    rfl
  · simp only [List.mem_cons, List.not_mem_nil, or_false] at hmem
    obtain rfl | rfl | rfl | rfl := hmem <;>
      exact congrArg Host.Outcome.next (stepOp_touchStep_conflict _ hfault hd)

/-! ### The answers a raw read discards (R202, R205) -/

/-- The bytes a raw read sends and its outcome, by the answers it keeps (R200 to R209). -/
def State.rawRead (s : State) : List Byte × OpResult :=
  let z := zBytes s.params.touchFill
  let x := axisBytes 0xD0 s.params.touchFill
  let y := axisBytes 0x90 s.params.touchFill
  if pressed (pressureAt s) then
    if axisAt s 4 = 0 then (z ++ x, .noTouch)
    else if axisAt s 10 = 0 then (z ++ x ++ y, .noTouch)
    else (z ++ x ++ y, .raw (pressureAt s) (axisAt s 4) (axisAt s 10))
  else (z, .noTouch)

theorem exec_touchRawRead_eq {s : State} (hs : s.Ready) (hd : s.st.dcsN = true) :
    exec .touchRawRead s = .next ((s.sampled s.rawRead.1).setResult s.rawRead.2) := by
  rw [exec_touchRawRead_ready hs, touchRawBody, rawSample_eq s hd, State.rawRead]
  split_ifs <;> rfl

theorem State.rawRead_length_le (s : State) : s.rawRead.1.length ≤ 16 := by
  unfold State.rawRead
  dsimp only
  split_ifs <;> simp [zBytes, axisBytes]

/-- A raw read keeps eight answers: two of the pressure conversions, three of each axis. -/
theorem State.rawRead_congr {s t : State} (hparams : s.params = t.params)
    (h : ∀ k ∈ [1, 3, 5, 8, 9, 11, 14, 15], adcByte s k = adcByte t k) : s.rawRead = t.rawRead := by
  have hp : pressureAt s = pressureAt t := by rw [pressureAt, h 1 (by decide), h 3 (by decide)]; rfl
  have hx : axisAt s 4 = axisAt t 4 := by rw [axisAt, h 5 (by decide), h 8 (by decide), h 9 (by decide)]; rfl
  have hy : axisAt s 10 = axisAt t 10 := by rw [axisAt, h 11 (by decide), h 14 (by decide), h 15 (by decide)]; rfl
  simp only [State.rawRead, hparams, hp, hx, hy]

theorem touchEvents_length (s : State) (os : List Byte) (k : Nat) : (touchEvents s os k).length = os.length := by
  induction os generalizing k with
  | nil => rfl
  | cons o os ih => exact congrArg (· + 1) (ih (k + 1))

/-- Settles O35: the bytes sent and the outcome are the same in both; the rest of the state is `State.sampled`'s. -/
theorem discardedTouchBytesNeverMatter : Obligations.DiscardedTouchBytesNeverMatter := by
  intro s adc1 adc2 _ _ _ hagree hs hd t1 t2 h1 h2
  have hkept : ∀ k ∈ [1, 3, 5, 8, 9, 11, 14, 15],
      adcByte { s with adc := adc1 } k = adcByte { s with adc := adc2 } k := fun k hk => by
    rw [adcByte, adcByte, hagree k hk]
  have hread : State.rawRead { s with adc := adc1 } = State.rawRead { s with adc := adc2 } :=
    State.rawRead_congr rfl hkept
  rw [exec_touchRawRead_eq (by exact hs) (by exact hd)] at h1 h2
  obtain rfl := Host.Outcome.next.inj h1
  obtain rfl := Host.Outcome.next.inj h2
  rw [hread]
  refine ⟨rfl, ?_, _, State.rawRead_length_le _, rfl, rfl⟩
  simp [State.sampled, touchRecord, touchEvents_length]

end Sys2Proof.Machine

/-! PROOFS about calibration (R231, R234, R240 to R246). What drawing leaves of a state is said once; the steps of a
calibration, and later the invariant, take it from there. -/

namespace Sys2Proof.Machine

/-! ### What drawing leaves (R161 to R168) -/

/-- The block after a batch of its own: the latches, the engine on, the display released, no batch open. -/
def Block.drawn (b : Block) : Block := { b.afterWord true with dcsN := true, inBatch := false }

@[simp] theorem Block.drawn_drawn (b : Block) : b.drawn.drawn = b.drawn := rfl

theorem Block.drawn_eq_self {b : Block} (hmosi : b.mosiLatch = true) (hsck : b.sckLatch = true) (hspe : b.spe = true)
    (hd : b.dcsN = true) (hbatch : b.inBatch = false) : b.drawn = b := by
  cases b
  simp_all [Block.drawn, Block.afterWord]

/-- From `s` to `t` the block has drawn: the controller has received words, the block is as it was or as a batch
leaves it, and the ROM, the parameters and the operation in progress are as they were. -/
structure State.Drew (s t : State) : Prop where
  rom : t.rom = s.rom
  params : t.params = s.params
  activity : t.activity = s.activity
  ctl : ∃ ws, t.ctl = s.ctl.receive ws
  st : t.st = s.st ∨ t.st = s.st.drawn

theorem State.Drew.refl (s : State) : s.Drew s := ⟨rfl, rfl, rfl, ⟨[], rfl⟩, .inl rfl⟩

theorem State.Drew.trans {s t u : State} (hst : s.Drew t) (htu : t.Drew u) : s.Drew u where
  rom := htu.rom.trans hst.rom
  params := htu.params.trans hst.params
  activity := htu.activity.trans hst.activity
  ctl := by
    obtain ⟨ws, hws⟩ := hst.ctl
    obtain ⟨vs, hvs⟩ := htu.ctl
    exact ⟨ws ++ vs, by rw [hvs, hws, Ctl.receive_append]⟩
  st := by
    obtain ht | ht := hst.st <;> obtain hu | hu := htu.st <;> simp [hu, ht]

theorem State.drew_batched (r : Rect) (cs : List U16) (s : State) : s.Drew (s.batched r cs) :=
  ⟨rfl, rfl, rfl, ⟨batchWords r cs, by rw [State.batched, State.after_ctl]⟩, .inr rfl⟩

theorem State.drew_filledScreen (c : U16) (s : State) : s.Drew (s.filledScreen c) := State.drew_batched _ _ s

theorem State.drew_filledRect (r : Rect) (c : U16) (s : State) : s.Drew (s.filledRect r c) := by
  unfold State.filledRect
  dsimp only
  split
  · exact State.Drew.refl s
  · exact State.drew_batched _ _ s

theorem State.drew_crosshaired (p : RawPoint) (fg bg : U16) (s : State) : s.Drew (s.crosshaired p fg bg) := by
  unfold State.crosshaired
  generalize crosshairSquares p fg bg = l
  induction l generalizing s with
  | nil => exact State.Drew.refl s
  | cons q l ih => exact (State.drew_filledRect q.1 q.2 s).trans (ih _)

/-- A state whose block a batch has left has the same block after more drawing. -/
theorem State.Drew.st_of_drawn {s t : State} (h : s.Drew t) (hs : s.st.drawn = s.st) : t.st = s.st := by
  obtain ht | ht := h.st
  · exact ht
  · exact ht.trans hs

/-! ### The parts of a calibration (R231 to R241) -/

theorem State.drew_accepted (fg bg tx ty : U16) (s : State) :
    (s.onSt (fun b => { b with calT := b.calT.set b.calI { x := tx, y := ty } })).Drew (s.accepted fg bg tx ty) :=
  (State.drew_filledRect _ _ _).trans (State.drew_filledScreen _ _)

theorem State.drew_nextTarget (fg bg tx ty : U16) (s : State) :
    ((s.accepted fg bg tx ty).onSt (fun b => { b with calI := s.st.calI + 1 })).Drew (s.nextTarget fg bg tx ty) :=
  State.drew_crosshaired _ _ _ _

/-- The block after a poll that takes a point and draws the next target (R231). -/
theorem State.nextTarget_st (fg bg tx ty : U16) (s : State) : (s.nextTarget fg bg tx ty).st =
    { s.st.drawn with calT := s.st.calT.set s.st.calI { x := tx, y := ty }, calI := s.st.calI + 1 } := by
  rw [(State.drew_nextTarget fg bg tx ty s).st_of_drawn] <;> rw [State.onSt, State.accepted_st] <;> rfl

/-- The block after the poll that takes the last point, before the commit or the failure (R241). -/
theorem State.calRestored_accepted_st (r : OpResult) (fg bg tx ty : U16) (s : State) :
    ((s.accepted fg bg tx ty).calRestored r).st = { s.st.drawn with
      calT := s.st.calT.set s.st.calI { x := tx, y := ty }, calI := 3
      width := orientWidth s.st.calSaved.byte, height := orientHeight s.st.calSaved.byte, orient := s.st.calSaved } := by
  simp only [State.calRestored, State.oriented_st, State.onSt, State.accepted_st]
  rfl

/-- The block after TOUCH_CALIBRATE up to its first poll (R231). -/
theorem State.calEntered_st (fg bg : U16) {s : State} (hbatch : s.st.inBatch = false) : (s.calEntered fg bg).st =
    { s.st.drawn with
      calSaved := s.st.orient, calI := 0, width := orientWidth Orientation.deg0.byte
      height := orientHeight Orientation.deg0.byte, orient := .deg0 } := by
  have hoff : s.st.drawn = { s.st.afterWord true with dcsN := true } := Block.afterWord_with_inBatch hbatch true true
  rw [State.calEntered]
  dsimp only
  rw [(State.drew_crosshaired _ _ _ _).st_of_drawn, State.onSt, State.oriented_st, hoff]
  · rfl
  · exact Block.drawn_eq_self rfl rfl rfl rfl hbatch

/-! ### TOUCH_CALIBRATE (R231) -/

/-- Settles O37. -/
theorem touchCalibrateDrawsFirstTarget : Obligations.TouchCalibrateDrawsFirstTarget := by
  intro fg bg s hs
  obtain ⟨hfault, hinit, hbatch⟩ := hs
  have hadmitted : exec (.touchCalibrate fg bg) s = .next (calibrateBody fg bg s).final :=
    congrArg Host.Outcome.next (hostOp_admitted .plain _ s hfault (.inr hinit) (.inr hbatch))
  refine ⟨fun hd => ?_, fun hd => ?_⟩
  · have hsaved : s.onSt (fun b => { b with calSaved := s.st.orient }) = s.onSt (fun b => { b with calSaved := b.orient }) :=
      rfl
    have htarget : (⟨20, 20⟩ : RawPoint) = refPoint 0 := rfl
    rw [hadmitted, calibrateBody_go fg bg s hd, hsaved, htarget, Flow.final_go, State.calEntered]
  · rw [hadmitted, calibrateBody, requireNoBracket_stop hd, Flow.final_stop]

/-! ### A poll (R231, R234) -/

section Poll
variable {s t : State} {fg bg : U16}

/-- What the invariant says of a block that polls (R231). -/
theorem State.Inv.polling (hinv : s.Inv) (hact : s.activity = .polling fg bg) :
    s.st.fault = none ∧ s.st.initDone = true ∧ s.st.dcsN = true ∧ s.st.inBatch = false ∧ s.st.orient = .deg0 ∧
      s.st.calI ≤ 2 := by
  have hok := hinv.activityOk
  rwa [State.ActivityOk, hact] at hok

theorem State.Inv.drawable (hinv : s.Inv) (hd : s.st.dcsN = true) : s.Drawable :=
  State.drawable_of_dimsAgree hd hinv.dimsAgree

/-- A poll from an invariant state is its body. -/
theorem State.Inv.step_poll (hinv : s.Inv) (hact : s.activity = .polling fg bg) :
    step s = .next (pollBody fg bg s).final := by
  obtain ⟨hfault, _, _, _, _, hi⟩ := hinv.polling hact
  rw [step_polling hact, pollStep, if_pos hi, stepOp_admitted _ _ hfault]

theorem pollBody_noTouch (hraw : rawSample s = .noTouch t) : pollBody fg bg s = .go t := by
  rw [pollBody, hraw]

/-- A poll with a valid touch accepts the point (R231). -/
theorem pollBody_touch {p : Byte} {tx ty : U16} (hraw : rawSample s = .touch p tx ty t) :
    pollBody fg bg s = acceptPoint fg bg t.st.calI tx ty t := by
  rw [pollBody, hraw]

/-- Settles O38: the sample leaves the block able to draw, so the next target follows. -/
theorem calibrationPollStep : Obligations.CalibrationPollStep := by
  intro fg bg s hinv hact
  obtain ⟨_, _, hd, _, _, _⟩ := hinv.polling hact
  refine ⟨fun t hraw => ?_, fun p tx ty t hraw hi => ?_, fun t hraw => ?_⟩
  · obtain ⟨os, rfl⟩ := rawSample_noTouch_sampled hd hraw
    rw [hinv.step_poll hact, pollBody_noTouch hraw]
    exact ⟨rfl, hact, rfl, rfl, rfl⟩
  · obtain ⟨os, rfl⟩ := rawSample_touch_sampled hd hraw
    have hdraw : (s.sampled os).Drawable := hinv.drawable hd
    rw [hinv.step_poll hact, pollBody_touch hraw, acceptPoint_next _ _ _ _ _ hdraw hi, Flow.final_go, State.nextTarget_st]
    exact ⟨rfl, rfl, rfl⟩
  · obtain ⟨os, h | ⟨p, tx, ty, h⟩⟩ := rawSample_sampled hd <;> cases hraw.symm.trans h

/-- The poll that takes the third point: the orientation restored, then the commit or the failure (R240 to R242). -/
theorem State.Inv.step_lastPoint (hinv : s.Inv) (hact : s.activity = .polling fg bg) (hi : s.st.calI = 2) {p : Byte}
    {tx ty : U16} (hraw : rawSample s = .touch p tx ty t) {w : CalWords}
    (hw : w = computeCal s.params.calArith { s.st.calT with p2 := ⟨tx, ty⟩ }) :
    step s = .next (if w.cdiv = 0 then (t.accepted fg bg tx ty).calRestored .calFailed
      else commitCal w ((t.accepted fg bg tx ty).calRestored .ok)) := by
  obtain ⟨_, _, hd, _, _, _⟩ := hinv.polling hact
  obtain ⟨os, rfl⟩ := rawSample_touch_sampled hd hraw
  have hdraw : (s.sampled os).Drawable := hinv.drawable hd
  have haccepted := State.accepted_st fg bg tx ty (s.sampled os)
  have hwords : computeCal ((s.sampled os).accepted fg bg tx ty).params.calArith
      ((s.sampled os).accepted fg bg tx ty).st.calT = w := by
    rw [(State.drew_accepted fg bg tx ty (s.sampled os)).params, haccepted, hw]
    simp only [State.sampled_st, hi]
    rfl
  rw [hinv.step_poll hact, pollBody_touch hraw, acceptPoint_last _ _ _ _ _ hdraw hi,
    finishCal_go _ (by rw [haccepted]), hwords, Flow.final_go]

end Poll

/-- Settles O39: the block before the commit or the failure is `State.calRestored_accepted_st`. -/
theorem calibrationCommitsOrFails : Obligations.CalibrationCommitsOrFails := by
  intro fg bg s t p tx ty w hinv hact hi hraw hw
  obtain ⟨_, _, hd, _, _, _⟩ := hinv.polling hact
  have hstep := hinv.step_lastPoint hact hi hraw hw
  obtain ⟨os, rfl⟩ := rawSample_touch_sampled hd hraw
  have hst r := State.calRestored_accepted_st r fg bg tx ty (s.sampled os)
  refine ⟨fun hdiv => ?_, fun hdiv => ?_⟩
  · refine ⟨_, hstep.trans (by rw [if_pos hdiv]), rfl, rfl, ?_⟩
    rw [hst]
    exact ⟨rfl, rfl, rfl, rfl, rfl, rfl, rfl, rfl, rfl, rfl⟩
  · refine ⟨_, hstep.trans (by rw [if_neg hdiv]), rfl, rfl, ?_⟩
    rw [commitCal, hst]
    exact ⟨rfl, rfl, rfl, rfl, rfl, rfl, rfl, rfl, rfl, rfl⟩

/-! ### The bounds of the words (R238, R239, R245) -/

/-- The u32 determinant is zero exactly where the exact one is: the exact one is within 32 bits (R245). -/
theorem computeCal_u32_cdiv_eq_zero {t : CalPoints} (h : |(coeffsExact t).div| ≤ 2 * 1022 ^ 2) :
    (computeCal .u32 t).cdiv = 0 ↔ (coeffsExact t).div = 0 := by
  rw [computeCal_u32, wordsOf]
  dsimp only
  generalize (coeffsExact t).div = v at h ⊢
  rw [abs_le] at h
  refine ⟨fun hz => ?_, fun hz => hz ▸ rfl⟩
  have hint : (BitVec.ofInt 32 v).toInt = v := BitVec.toInt_ofInt_eq_self (by decide) (by omega) (by omega)
  have hzero : BitVec.ofInt 32 v = 0 := by bv_omega
  rw [← hint, hzero]
  rfl

/-- Settles O41: the bounds are R245's for the range [1, 1023]; the words are exact in either arithmetic as far as the
bounds allow. -/
theorem calibrationBounds : Obligations.CalibrationBounds := by
  refine ⟨computeCal_u32, fun t ht => ?_⟩
  obtain ⟨hdiv, ha, hb, hd, he, hc, hf⟩ := coeffsExact_bounds (lo := 1) (hi := 1023) ht
  obtain ⟨wa, wb, wc, wd, we, wf, wdiv⟩ := computeCal_s64_toInt t
  refine ⟨hdiv, ha, hb, hd, he, hc, hf, wa, wb, wc, wd, we, wf, wdiv, computeCal_u32_cdiv_eq_zero hdiv, ?_⟩
  rw [← wdiv, ← BitVec.toInt_inj]
  rfl

end Sys2Proof.Machine

/-! PROOFS about INIT (R140, R330 to R336): its first step, the instructions of its program, and the run of a well-formed
program to R36's state. -/

namespace Sys2Proof.Machine

/-! ### INIT up to its program (R331 to R333) -/

/-- INIT is admitted before a first INIT and with a bracket open (R336). -/
theorem exec_initBlock_go (k : DivCode) {s : State} (hfault : s.st.fault = none) (hbatch : s.st.inBatch = false) :
    exec (.initBlock k) s = .next (s.initEntered k) := by
  have hadmitted := hostOp_admitted .init (initBody k) s hfault (.inl rfl) (.inr hbatch)
  rw [initBody_go, Flow.final_go] at hadmitted
  exact congrArg Host.Outcome.next hadmitted

/-- Settles O49. -/
theorem initEntersItsProgram : Obligations.InitEntersItsProgram := by
  intro k s hfault hbatch
  rw [exec_initBlock_go k hfault hbatch, State.initEntered, Block.initEntered, initEvents]
  rfl

/-! ### The instructions of the program (R140) -/

theorem asEvents_map (dcx : Bool) (bs : List Byte) : asEvents (bs.map (dcx, ·)) = bs.map (.w9 dcx ·) := by
  simp [asEvents]

theorem exec_endProgram {s : State} (hfault : s.st.fault = none) :
    exec .endProgram s = .next { s with activity := .initTail } :=
  congrArg Host.Outcome.next (stepOp_admitted endProgramBody s hfault)

/-- Settles O50: a run is `runBytes` for its kind, whole by `runBytes_go`, cut short by `runBytes_stop`. -/
theorem initProgramInstructions : Obligations.InitProgramInstructions := by
  intro s hs
  obtain ⟨hfault, hd⟩ := hs
  refine ⟨exec_endProgram hfault, fun i dcx n bs hi => ?_,
    fun b => congrArg Host.Outcome.next (stepOp_admitted (fail .badInitProgram) s hfault)⟩
  have hexec : exec i s = .next (runBytes dcx n.toNat s).final := by
    rw [← stepOp_admitted _ _ hfault]
    obtain ⟨rfl, rfl⟩ | ⟨rfl, rfl⟩ := hi <;> rfl
  refine ⟨fun hread => ?_, fun k hk hread hend => ?_⟩
  · rw [hexec, runBytes_go dcx _ bs s hd hread, Flow.final_go, asEvents_map]
  · rw [hexec, runBytes_stop dcx k _ bs s hd hk hread hend, Flow.final_stop, asEvents_map]

/-! ### Reading a program (R94, R95, R141) -/

/-- The ROM holds the bytes `p` from address `a` on. -/
def Memory.Holds (m : Memory) (a : Nat) (p : List Byte) : Prop := ∀ j, j < p.length → m.read (a + j) = p[j]?

theorem Memory.Holds.head {m : Memory} {a : Nat} {b : Byte} {p : List Byte} (h : m.Holds a (b :: p)) :
    m.read a = some b := h 0 (Nat.succ_pos _)

theorem Memory.Holds.drop {m : Memory} {a : Nat} {p : List Byte} (h : m.Holds a p) (n : Nat) :
    m.Holds (a + n) (p.drop n) := by
  intro j hj
  rw [List.length_drop] at hj
  rw [List.getElem?_drop, Nat.add_assoc]
  exact h (n + j) (by omega)

theorem Memory.Holds.readList {m : Memory} {a : Nat} {p : List Byte} (h : m.Holds a p) {n : Nat} (hn : n ≤ p.length) :
    m.readList a n = some (p.take n) := by
  induction n generalizing a p with
  | zero => rfl
  | succ n ih =>
    cases p with
    | nil => exact absurd hn (Nat.not_succ_le_zero n)
    | cons b p =>
      have hrest : m.readList (a + 1) n = some (p.take n) := ih (h.drop 1) (Nat.le_of_succ_le_succ hn)
      simp only [Memory.readList, h.head, hrest, List.take_succ_cons]

/-- A byte of a well-formed program is END, or a run with its operand bytes and a well-formed rest (R94, R141). -/
theorem parseInitProgram_cons {fuel : Nat} {b : Byte} {rest : List Byte} {runs : List InitRun}
    (h : parseInitProgram (fuel + 1) (b :: rest) = some runs) :
    (decodeRom b = .endProgram ∧ runs = []) ∨
    ∃ dcx n runs', (∀ s, exec (decodeRom b) s = .next (stepOp (runBytes dcx n) s)) ∧ n < rest.length ∧
      parseInitProgram fuel (rest.drop n) = some runs' ∧ runs = ⟨dcx, rest.take n⟩ :: runs' := by
  have hrun (dcx : Bool) (n : Nat) (hrun : (if n < rest.length then
      (parseInitProgram fuel (rest.drop n)).map (⟨dcx, rest.take n⟩ :: ·) else none) = some runs) :
      ∃ runs', n < rest.length ∧ parseInitProgram fuel (rest.drop n) = some runs' ∧
        runs = ⟨dcx, rest.take n⟩ :: runs' := by
    split at hrun
    · next hn =>
      obtain ⟨runs', hparse, rfl⟩ := Option.map_eq_some_iff.mp hrun
      exact ⟨runs', hn, hparse, rfl⟩
    · cases hrun
  rw [parseInitProgram] at h
  split at h
  · next hend => cases h; exact .inl ⟨hend, rfl⟩
  · next n hdata =>
    obtain ⟨runs', hn, hparse, hruns⟩ := hrun true n.toNat h
    exact .inr ⟨true, n.toNat, runs', fun s => hdata ▸ rfl, hn, hparse, hruns⟩
  · next n hcmd =>
    obtain ⟨runs', hn, hparse, hruns⟩ := hrun false n.toNat h
    exact .inr ⟨false, n.toNat, runs', fun s => hcmd ▸ rfl, hn, hparse, hruns⟩
  · cases h

/-! ### The run of a program (R140) -/

theorem runSteps_succ {s t : State} (h : step s = .next t) (n : Nat) : runSteps (n + 1) s = runSteps n t := by
  rw [runSteps, h]

theorem runSteps_add {m : Nat} {s t : State} (h : runSteps m s = .next t) (n : Nat) :
    runSteps (m + n) s = runSteps n t := by
  induction m generalizing s with
  | zero => cases h; rw [Nat.zero_add]
  | succ m ih =>
    rw [runSteps] at h
    split at h
    · next u hu => rw [Nat.succ_add, runSteps_succ hu]; exact ih h
    · cases h
    · cases h

/-- Words leave all of the block as it was but the two latches and the engine's enable. -/
theorem Block.latched_eq (ws : List (Bool × Byte)) (b : Block) : b.latched ws =
    { b with
      mosiLatch := (b.latched ws).mosiLatch, sckLatch := (b.latched ws).sckLatch, spe := (b.latched ws).spe } := by
  unfold Block.latched
  split <;> rfl

theorem Block.latched_fault (ws : List (Bool × Byte)) (b : Block) : (b.latched ws).fault = b.fault := by
  rw [Block.latched_eq]

theorem Block.latched_dcsN (ws : List (Bool × Byte)) (b : Block) : (b.latched ws).dcsN = b.dcsN := by
  rw [Block.latched_eq]

/-- The state the init program leaves: its words sent, the pointer at `ip`, INIT going on (R140). -/
def State.programRun (runs : List InitRun) (ip : Nat) (s : State) : State :=
  { s.after (asEvents (programWords runs)) { s.st.latched (programWords runs) with ip := ip }
      (s.ctl.receive (programWords runs)) with activity := .initTail }

/-- The state after one run of `bs`, at the instruction after it. -/
def State.runSent (dcx : Bool) (bs : List Byte) (s : State) : State :=
  s.after (asEvents (bs.map (dcx, ·))) { s.st.latched (bs.map (dcx, ·)) with ip := s.st.ip + 1 + bs.length }
    (s.ctl.receive (bs.map (dcx, ·)))

/-- A run, then the runs after it. -/
theorem State.programRun_cons (dcx : Bool) (bs : List Byte) (runs : List InitRun) (ip : Nat) (s : State) :
    (s.runSent dcx bs).programRun runs ip = s.programRun (⟨dcx, bs⟩ :: runs) ip := by
  have hwords : programWords (⟨dcx, bs⟩ :: runs) = bs.map (dcx, ·) ++ programWords runs := List.flatMap_cons
  simp only [State.programRun, State.runSent, State.after_after, State.after_st, State.after_ctl, hwords,
    asEvents_append, Ctl.receive_append, Block.latched_append, latched_with_ip]

/-- A step that runs one run of the program. -/
theorem step_run {s : State} {b : Byte} {dcx : Bool} {rest : List Byte} {n : Nat} (hact : s.activity = .initProgram)
    (hs : s.Selected) (hholds : s.rom.Holds s.st.ip (b :: rest)) (hn : n ≤ rest.length)
    (hexec : ∀ t, exec (decodeRom b) t = .next (stepOp (runBytes dcx n) t)) :
    step s = .next (s.runSent dcx (rest.take n)) := by
  obtain ⟨hfault, hd⟩ := hs
  have hread : s.rom.readList (s.st.ip + 1) n = some (rest.take n) := (hholds.drop 1).readList hn
  have hgo := runBytes_go dcx n _ (s.onSt (fun st => { st with ip := st.ip + 1 })) hd hread
  rw [step_initProgram_byte hact hholds.head, hexec, stepOp_admitted _ _ (by exact hfault), hgo, Flow.final_go, State.runSent,
    List.length_take_of_le hn]
  simp only [State.onSt, latched_with_ip]
  rfl

/-- A well-formed program in the ROM at the pointer runs to its END (R140, R141). -/
theorem runSteps_program {fuel : Nat} {prog : List Byte} {runs : List InitRun} {s : State}
    (hparse : parseInitProgram fuel prog = some runs) (hact : s.activity = .initProgram) (hs : s.Selected)
    (hholds : s.rom.Holds s.st.ip prog) : ∃ n ip, runSteps n s = .next (s.programRun runs ip) := by
  induction fuel generalizing prog runs s with
  | zero => cases hparse
  | succ fuel ih =>
    cases prog with
    | nil => cases hparse
    | cons b rest =>
      obtain ⟨hend, rfl⟩ | ⟨dcx, n, runs', hexec, hn, hrest, rfl⟩ := parseInitProgram_cons hparse
      · have hstep := step_initProgram_byte hact hholds.head
        rw [hend, exec_endProgram (by exact hs.1)] at hstep
        exact ⟨1, s.st.ip + 1, runSteps_succ hstep 0⟩
      · have hstep := step_run hact hs hholds hn.le hexec
        obtain ⟨m, ip, hrun⟩ := ih (s := s.runSent dcx (rest.take n)) hrest hact
          ⟨(Block.latched_fault _ _).trans hs.1, (Block.latched_dcsN _ _).trans hs.2⟩ (by
            have hafter : s.rom.Holds (s.st.ip + 1 + n) (rest.drop n) := (hholds.drop 1).drop n
            rw [State.runSent, State.after_st, List.length_take_of_le hn.le]
            exact hafter)
        exact ⟨m + 1, ip, by rw [runSteps_succ hstep, hrun, State.programRun_cons]⟩

/-! ### INIT to its end (R36, R335) -/

theorem State.initEntered_wire (k : DivCode) (s : State) :
    (s.initEntered k).wire = s.wire ++ expand (initEvents k) (s.draws + resetPulses s) :=
  State.wire_after _ s.st s.ctl { s with draws := s.draws + resetPulses s }

theorem State.programRun_wire (runs : List InitRun) (ip : Nat) (s : State) :
    (s.programRun runs ip).wire = s.wire ++ expand (asEvents (programWords runs)) s.draws :=
  State.wire_after _ s.st s.ctl s

/-- INIT's last part on the 0° screen: its record (R334, R335). -/
theorem State.initLeft_wire {s : State} (hw : s.st.width = 320) (hh : s.st.height = 240) :
    s.initLeft.wire = s.wire ++ expand initTailEvents s.draws := by
  have hfill : s.initLeft.wire = (State.filledScreen 0x0000 (s.after [.w9 false 0x29, .ev (.csd true)]
      { s.st.afterWord false with dcsN := true } (s.ctl.word false 0x29))).wire := rfl
  have hwidth : (s.st.afterWord false).width = 320 := hw
  have hheight : (s.st.afterWord false).height = 240 := hh
  rw [hfill, State.filledScreen, State.batched, State.wire_after, State.wire_after, initTailEvents, expand_append]
  simp only [State.after_st, State.after_draws, hwidth, hheight, List.append_assoc]
  rfl

theorem State.initLeft_st (s : State) : s.initLeft.st = { s.st.drawn with initDone := true } := rfl

/-- INIT's last part from inside its bracket on the 0° screen, as a step. -/
theorem step_initTail_go {s : State} (hact : s.activity = .initTail) (hs : s.Selected) (hw : s.st.width = 320)
    (hh : s.st.height = 240) : step s = .next s.initLeft := by
  obtain ⟨hfault, hd⟩ := hs
  rw [step_initTail hact, stepOp_admitted _ _ hfault, initTailBody_go s hd (by rw [hw]; decide) (by rw [hh]; decide),
    Flow.final_go]

/-- Settles O51: INIT enters its program, which runs to its END, and the last part does the rest. -/
theorem initReachesInitialState : Obligations.InitReachesInitialState := by
  intro k s rest prog runs hidle hissue hfault hbatch hrom hruns
  have hdec : decode (Packet.code (.host [0x01, k.setWidth 8])) = .ok (.initBlock k) := decodeOfEncode (.initBlock k) rfl
  have hfirst := step_idle_ok hidle hissue hdec
  rw [exec_initBlock_go k (by exact hfault) (by exact hbatch)] at hfirst
  obtain ⟨n, ip, hprogram⟩ := runSteps_program (s := State.initEntered k { s with issue := rest }) hruns rfl
    ⟨hfault, rfl⟩ (fun j hj => by rw [← hrom j hj]; exact congrArg s.rom.read (Nat.zero_add j))
  generalize hu : State.programRun runs ip (State.initEntered k { s with issue := rest }) = u at hprogram
  have hust : u.st = { (s.st.initEntered k).latched (programWords runs) with ip := ip } := hu ▸ rfl
  have hwire : u.wire = s.wire ++ expand (initEvents k ++ asEvents (programWords runs)) (s.draws + resetPulses s) := by
    rw [← hu, State.programRun_wire, State.initEntered_wire, expand_append, List.append_assoc]
    rfl
  have hdraws : u.draws = s.draws + resetPulses s + wordCount (initEvents k ++ asEvents (programWords runs)) := by
    rw [← hu, wordCount_append, ← Nat.add_assoc]
    rfl
  rw [Block.latched_eq] at hust
  have hw : u.st.width = 320 := by rw [hust]; rfl
  have hh : u.st.height = 240 := by rw [hust]; rfl
  have hlast := step_initTail_go (s := u) (hu ▸ rfl) ⟨by rw [hust]; exact hfault, by rw [hust]; rfl⟩ hw hh
  refine ⟨n + 1 + 1, u.initLeft, ?_, ?_, ?_, rfl, rfl, hu ▸ rfl, hu ▸ rfl, hu ▸ rfl⟩
  · rw [runSteps_succ hfirst, runSteps_add hprogram, runSteps_succ hlast, runSteps]
  · rw [State.initLeft_st, hust]
    rfl
  · rw [State.initLeft_wire hw hh, hwire, hdraws, expand_append (initEvents k ++ _), List.append_assoc]

end Sys2Proof.Machine

/-! PROOFS of the write rules (R26, R30, R60, R63): what every step keeps of the ROM, the parameters and the record, and
which steps write the display divisor and the calibration words. Every part of an operation but two keeps all of them;
INIT writes the divisor, the end of a calibration the words. -/

namespace Sys2Proof.Machine

/-! ### What a state keeps of an earlier one -/

/-- From `s` to `t` the record has only grown, the line has moved as the new events do (R24, R60), and neither the ROM
nor the parameters have changed (R63). -/
def State.Extends (s t : State) : Prop :=
  t.rom = s.rom ∧ t.params = s.params ∧ ∃ es, t.wire = s.wire ++ es ∧ t.line = es.foldl Line.after s.line

/-- From `s` to `t` also the display divisor and the calibration words are unchanged, and `calibrated` has not become
true. -/
def State.Keeps (s t : State) : Prop :=
  s.Extends t ∧ t.st.dispDiv = s.st.dispDiv ∧ t.st.cal = s.st.cal ∧ (t.st.calibrated = true → s.st.calibrated = true)

theorem State.Extends.refl (s : State) : s.Extends s := ⟨rfl, rfl, [], (List.append_nil _).symm, rfl⟩

theorem State.Extends.trans {s t u : State} (hst : s.Extends t) (htu : t.Extends u) : s.Extends u := by
  obtain ⟨hrom, hparams, es, hwire, hline⟩ := hst
  obtain ⟨hrom', hparams', fs, hwire', hline'⟩ := htu
  exact ⟨hrom'.trans hrom, hparams'.trans hparams, es ++ fs, by rw [hwire', hwire, List.append_assoc],
    by rw [hline', hline, List.foldl_append]⟩

theorem State.Keeps.refl (s : State) : s.Keeps s := ⟨State.Extends.refl s, rfl, rfl, id⟩

theorem State.Keeps.trans {s t u : State} (hst : s.Keeps t) (htu : t.Keeps u) : s.Keeps u := by
  obtain ⟨hext, hdiv, hcal, hcalibrated⟩ := hst
  obtain ⟨hext', hdiv', hcal', hcalibrated'⟩ := htu
  exact ⟨hext.trans hext', hdiv'.trans hdiv, hcal'.trans hcal, hcalibrated ∘ hcalibrated'⟩

/-- Events on the record, the line moved by them. -/
theorem State.extends_of_events {s t : State} (es : List WireEvent) (hrev : t.wireRev = es.reverse ++ s.wireRev)
    (hrom : t.rom = s.rom) (hparams : t.params = s.params) (hline : t.line = es.foldl Line.after s.line) :
    s.Extends t :=
  ⟨hrom, hparams, es, by rw [State.wire, State.wire, hrev, List.reverse_append, List.reverse_reverse], hline⟩

section Writes
variable {s₀ s : State}

theorem State.Keeps.writeDcs (h : s₀.Keeps s) (v : Bool) : s₀.Keeps (State.writeDcs v s) :=
  h.trans ⟨State.extends_of_events [.csd v] rfl rfl rfl rfl, rfl, rfl, id⟩

theorem State.Keeps.word (h : s₀.Keeps s) (dcx : Bool) (b : Byte) (c : Ctl) :
    s₀.Keeps (s.after [.w9 dcx b] (s.st.afterWord dcx) c) :=
  h.trans ⟨State.extends_of_events (wordExpansion dcx b (Config.freeByte s.draws)) rfl rfl rfl rfl, rfl, rfl, id⟩

theorem State.Keeps.touchXfer (h : s₀.Keeps s) (o : Byte) : s₀.Keeps (touchXfer o s) :=
  h.trans ⟨State.extends_of_events [.x8 o (adcAnswer s)] rfl rfl rfl rfl, rfl, rfl, id⟩

/-- An exchange leaves the line where it is. -/
theorem foldl_after_touchEvents (l : Line) (s : State) (os : List Byte) (k : Nat) :
    (touchEvents s os k).foldl Line.after l = l := by
  induction os generalizing k with
  | nil => rfl
  | cons o os ih => exact ih (k + 1)

theorem State.Keeps.sampled (h : s₀.Keeps s) (os : List Byte) : s₀.Keeps (s.sampled os) := by
  refine h.trans ⟨State.extends_of_events (touchRecord os s) rfl rfl rfl ?_, rfl, rfl, id⟩
  rw [touchRecord, List.foldl_append, List.foldl_append, foldl_after_touchEvents]
  rfl

end Writes

/-! ### Parts of an operation -/

/-- What holds where a part of an operation ends, faulted or not, holds where the next part ends. -/
theorem Flow.final_andThen {P Q : State → Prop} {f : Flow} {k : State → Flow} (hf : P f.final) (hstop : ∀ s, P s → Q s)
    (hk : ∀ s, P s → Q (k s).final) : Q (f.andThen k).final := by
  cases f with
  | go s => exact hk s hf
  | stop s => exact hstop s hf

theorem Flow.final_map {P : State → Prop} {f : Flow} {k : State → State} (hf : P f.final) (hk : ∀ s, P s → P (k s)) :
    P (f.map k).final := by
  cases f with
  | go s => exact hk s hf
  | stop s => exact hf

section Parts
variable {s₀ s : State}

theorem Flow.keeps_andThen {f : Flow} {k : State → Flow} (hf : s₀.Keeps f.final)
    (hk : ∀ s, s₀.Keeps s → s₀.Keeps (k s).final) : s₀.Keeps (f.andThen k).final :=
  Flow.final_andThen hf (fun _ ht => ht) hk

theorem Flow.keeps_map {f : Flow} {k : State → State} (hf : s₀.Keeps f.final)
    (hk : ∀ s, s₀.Keeps s → s₀.Keeps (k s)) : s₀.Keeps (f.map k).final := Flow.final_map hf hk

theorem requireNoBracket_keeps {body : State → Flow} (h : s₀.Keeps s) (hbody : s₀.Keeps (body s).final) :
    s₀.Keeps (requireNoBracket body s).final := by
  unfold requireNoBracket
  split
  · exact hbody
  · exact h

theorem word_keeps (h : s₀.Keeps s) (dcx : Bool) (b : Byte) : s₀.Keeps (word dcx b s).final := by
  cases hd : s.st.dcsN with
  | true => rw [word_stop _ _ _ hd]; exact h
  | false => rw [word_go _ _ _ hd]; exact h.word dcx b _

theorem words_keeps (ws : List (Bool × Byte)) (h : s₀.Keeps s) : s₀.Keeps (words ws s).final := by
  induction ws generalizing s with
  | nil => exact h
  | cons w ws ih => exact Flow.keeps_andThen (word_keeps h w.1 w.2) fun _ ht => ih ht

theorem bracketed_keeps (ws : List (Bool × Byte)) (h : s₀.Keeps s) : s₀.Keeps (bracketed ws s).final :=
  Flow.keeps_map (words_keeps ws (h.writeDcs false)) fun _ ht => ht.writeDcs true

theorem beginBody_keeps (h : s₀.Keeps s) : s₀.Keeps (beginBody s).final := by
  unfold beginBody
  split
  · exact h.writeDcs false
  · exact h

theorem endBody_keeps (h : s₀.Keeps s) : s₀.Keeps (endBody s).final := by
  unfold endBody
  split
  · exact h
  · exact h.writeDcs true

/-! ### Display operations (R160 to R169) -/

theorem setArea_keeps (x0 y0 x1 y1 : U16) (h : s₀.Keeps s) : s₀.Keeps (setArea x0 y0 x1 y1 s).final :=
  Flow.keeps_andThen (bracketed_keeps _ h) fun _ ht => bracketed_keeps _ ht

theorem batchStartBody_keeps (x y w hh : U16) (h : s₀.Keeps s) : s₀.Keeps (batchStartBody x y w hh s).final := by
  refine requireNoBracket_keeps h ?_
  split
  · have hopen := Flow.keeps_map (setArea_keeps x y (rangeEnd x w) (rangeEnd y hh) h) fun _ ht => ht.writeDcs false
    exact Flow.keeps_map (Flow.keeps_andThen hopen fun _ ht => word_keeps ht _ _) fun _ ht => ht
  · exact h

theorem batchDrawBody_keeps (c : U16) (h : s₀.Keeps s) : s₀.Keeps (batchDrawBody c s).final := by
  unfold batchDrawBody
  split
  · exact words_keeps _ h
  · exact h

theorem batchStopBody_keeps (h : s₀.Keeps s) : s₀.Keeps (batchStopBody s).final := by
  unfold batchStopBody
  split
  · exact h.writeDcs true
  · exact h

theorem drawTimes_keeps (c : U16) (n : Nat) (h : s₀.Keeps s) : s₀.Keeps (drawTimes c n s).final := by
  induction n generalizing s with
  | zero => exact h
  | succ n ih => exact Flow.keeps_andThen (batchDrawBody_keeps c h) fun _ ht => ih ht

theorem solidBatch_keeps (r : Rect) (c : U16) (n : Nat) (h : s₀.Keeps s) : s₀.Keeps (solidBatch r c n s).final :=
  Flow.keeps_andThen (Flow.keeps_andThen (batchStartBody_keeps _ _ _ _ h) fun _ ht => drawTimes_keeps c n ht)
    fun _ ht => batchStopBody_keeps ht

theorem drawPixelBody_keeps (x y c : U16) (h : s₀.Keeps s) : s₀.Keeps (drawPixelBody x y c s).final := by
  refine requireNoBracket_keeps h ?_
  split
  · exact h
  · exact solidBatch_keeps _ _ _ h

theorem fillRectBody_keeps (r : Rect) (c : U16) (h : s₀.Keeps s) : s₀.Keeps (fillRectBody r c s).final := by
  refine requireNoBracket_keeps h ?_
  dsimp only
  split
  · exact h
  · exact solidBatch_keeps _ _ _ h

theorem fillScreenBody_keeps (c : U16) (h : s₀.Keeps s) : s₀.Keeps (fillScreenBody c s).final :=
  requireNoBracket_keeps h (solidBatch_keeps _ _ _ h)

theorem setOrientationBody_keeps (o : Byte) (h : s₀.Keeps s) : s₀.Keeps (setOrientationBody o s).final := by
  refine requireNoBracket_keeps h ?_
  split
  · next q _ =>
    have hmadctl : s₀.Keeps (bracketed (commandWords 0x36 [orientMadctl q.byte])
        { s with st := { s.st with width := orientWidth q.byte, height := orientHeight q.byte } }).final :=
      bracketed_keeps _ h
    exact Flow.keeps_map (Flow.keeps_andThen hmadctl fun _ ht => setArea_keeps _ _ _ _ ht) fun _ ht => ht
  · exact h

theorem setInvertedBody_keeps (inv : Bool) (h : s₀.Keeps s) : s₀.Keeps (setInvertedBody inv s).final :=
  requireNoBracket_keeps h (bracketed_keeps _ h)

/-! ### Touch sampling and the calibrated read (R200 to R272) -/

/-- A raw sample ends in a state that keeps what it kept. -/
def Sampled.Keeps (s₀ : State) : Sampled → Prop
  | .conflict t | .noTouch t | .touch _ _ _ t => s₀.Keeps t

theorem rawSample_keeps (h : s₀.Keeps s) : (rawSample s).Keeps s₀ := by
  cases hd : s.st.dcsN with
  | false => rw [rawSample_conflict s hd]; exact h
  | true =>
    obtain ⟨os, e | ⟨p, tx, ty, e⟩⟩ := rawSample_sampled hd <;> rw [e] <;> exact h.sampled os

theorem touchRawBody_keeps (h : s₀.Keeps s) : s₀.Keeps (touchRawBody s).final := by
  have hraw := rawSample_keeps h
  unfold touchRawBody
  generalize rawSample s = r at hraw ⊢
  cases r <;> exact hraw

theorem touchStep_keeps {conversion : State → U16 × State} (h : s₀.Keeps s) (hconv : s₀.Keeps (conversion s).2) :
    s₀.Keeps (touchStep conversion s).final := by
  unfold touchStep
  split
  · exact hconv
  · exact h

theorem conversion8_keeps (cmd : Byte) (h : s₀.Keeps s) : s₀.Keeps (conversion8 cmd s).2 :=
  (h.touchXfer _).touchXfer _

theorem sampleAxis_keeps (cmd : Byte) (h : s₀.Keeps s) : s₀.Keeps (sampleAxis cmd s).2 :=
  (((((h.touchXfer _).touchXfer _).touchXfer _).touchXfer _).touchXfer _).touchXfer _

theorem touchReadBody_keeps (h : s₀.Keeps s) : s₀.Keeps (touchReadBody s).final := by
  have hraw := rawSample_keeps h
  unfold touchReadBody
  split
  · generalize rawSample s = r at hraw ⊢
    cases r with
    | conflict t => exact hraw
    | noTouch t => exact hraw
    | touch p tx ty t => rw [Flow.final_go, acceptReading_eq]; exact hraw
  · exact h

/-! ### Calibration up to its end, and INIT's program (R140, R231) -/

theorem fillAll_keeps (l : List (Rect × U16)) (h : s₀.Keeps s) : s₀.Keeps (fillAll l s).final := by
  induction l generalizing s with
  | nil => exact h
  | cons q l ih => exact Flow.keeps_andThen (fillRectBody_keeps q.1 q.2 h) fun _ ht => ih ht

theorem calibrateBody_keeps (fg bg : U16) (h : s₀.Keeps s) : s₀.Keeps (calibrateBody fg bg s).final := by
  refine requireNoBracket_keeps h ?_
  have hturned : s₀.Keeps (setOrientationBody Orientation.deg0.byte
      { s with st := { s.st with calSaved := s.st.orient } }).final := setOrientationBody_keeps _ h
  refine Flow.keeps_map (Flow.keeps_andThen (Flow.keeps_map hturned fun _ ht => ht) fun _ ht => ?_) fun _ ht => ht
  exact fillAll_keeps _ ht

theorem initTailBody_keeps (h : s₀.Keeps s) : s₀.Keeps (initTailBody s).final :=
  Flow.keeps_map (Flow.keeps_andThen (Flow.keeps_map (word_keeps h _ _) fun _ ht => ht.writeDcs true)
    fun _ ht => fillScreenBody_keeps _ ht) fun _ ht => ht

theorem runBytes_keeps (dcx : Bool) (n : Nat) (h : s₀.Keeps s) : s₀.Keeps (runBytes dcx n s).final := by
  induction n generalizing s with
  | zero => exact h
  | succ n ih =>
    have hread : s₀.Keeps (readRom (fun b t => word dcx b t) s).final := by
      unfold readRom
      split
      · exact word_keeps (s := { s with st := { s.st with ip := s.st.ip + 1 } }) h _ _
      · exact h
    exact Flow.keeps_andThen hread fun _ ht => ih ht

/-! ### Operations -/

theorem hostOp_keeps {k : OpClass} {body : State → Flow} (h : s₀.Keeps s) (hbody : s₀.Keeps (body s).final) :
    s₀.Keeps (hostOp k body s) := by
  obtain ⟨c, -, e⟩ | ⟨-, e⟩ | ⟨-, e⟩ | ⟨-, -, -, e⟩ := hostOp_cases k body s <;> rw [e]
  · exact h
  · exact h
  · exact h
  · exact hbody

theorem plainOp_keeps {k : OpClass} {body : State → Flow} (h : s₀.Keeps s) (hbody : s₀.Keeps (body s).final) :
    s₀.Keeps (plainOp k body s) := hostOp_keeps h (Flow.keeps_map hbody fun _ ht => ht)

theorem stepOp_keeps {body : State → Flow} (h : s₀.Keeps s) (hbody : s₀.Keeps (body s).final) :
    s₀.Keeps (stepOp body s) := by
  unfold stepOp
  split
  · exact h
  · exact hbody

end Parts

/-- Where the machine goes on, it has kept what `s` had. -/
def AnswerKeeps (s : State) : Answer → Prop
  | .next t => s.Keeps t
  | .fault _ | .refused _ => True

/-- Every instruction but INIT keeps the ROM, the parameters, the record, the divisor and the calibration words. -/
theorem exec_keeps {s₀ s : State} (h : s₀.Keeps s) (i : Instr) (hi : ∀ k, i ≠ .initBlock k) :
    AnswerKeeps s₀ (exec i s) := by
  have hwire : ∀ w, encode i = .wire w → AnswerKeeps s₀ (exec i s) := fun w hw => by
    rw [exec_of_encode_wire hw]
    exact stepOp_keeps h (word_keeps h _ _)
  cases i with
  | endProgram => exact stepOp_keeps h h
  | dataRun n => exact stepOp_keeps h (runBytes_keeps _ _ h)
  | cmdRun n => exact stepOp_keeps h (runBytes_keeps _ _ h)
  | reservedInit b => exact stepOp_keeps h h
  | touchZ1 => exact stepOp_keeps h (touchStep_keeps h (conversion8_keeps _ h))
  | touchZ2 => exact stepOp_keeps h (touchStep_keeps h (conversion8_keeps _ h))
  | touchX => exact stepOp_keeps h (touchStep_keeps h (sampleAxis_keeps _ h))
  | touchY => exact stepOp_keeps h (touchStep_keeps h (sampleAxis_keeps _ h))
  | initBlock k => exact absurd rfl (hi k)
  | beginTx => exact plainOp_keeps h (beginBody_keeps h)
  | endTx => exact plainOp_keeps h (endBody_keeps h)
  | sendCmd b => exact plainOp_keeps h (word_keeps h _ _)
  | sendData b => exact plainOp_keeps h (word_keeps h _ _)
  | sendData16 v => exact plainOp_keeps h (words_keeps _ h)
  | setOrientation o => exact plainOp_keeps h (setOrientationBody_keeps o h)
  | setInverted inv => exact plainOp_keeps h (setInvertedBody_keeps inv h)
  | batchStart x y w hh => exact plainOp_keeps h (batchStartBody_keeps x y w hh h)
  | batchDraw c => exact plainOp_keeps h (batchDrawBody_keeps c h)
  | batchStop => exact plainOp_keeps h (batchStopBody_keeps h)
  | drawPixel x y c => exact plainOp_keeps h (drawPixelBody_keeps x y c h)
  | fillRect x y w hh c => exact plainOp_keeps h (fillRectBody_keeps _ c h)
  | fillScreen c => exact plainOp_keeps h (fillScreenBody_keeps c h)
  | touchRawRead => exact hostOp_keeps h (touchRawBody_keeps h)
  | touchCalibrate fg bg => exact hostOp_keeps h (calibrateBody_keeps fg bg h)
  | touchRead => exact hostOp_keeps h (touchReadBody_keeps h)
  | setBrightness pct => exact plainOp_keeps h h
  | _ => exact hwire _ rfl

/-! ### The two parts that write more -/

/-- INIT, where it is admitted, writes the divisor; not the calibration words, and it clears `calibrated` (R331). -/
theorem State.extends_initEntered (k : DivCode) (s : State) : s.Extends (s.initEntered k) :=
  ⟨rfl, rfl, _, State.initEntered_wire k s, rfl⟩

/-- INIT's first step: the prelude's exits keep everything, the body enters the program. -/
theorem exec_initBlock_cases (k : DivCode) (s : State) :
    ∃ t, exec (.initBlock k) s = .next t ∧ (s.Keeps t ∨ t = s.initEntered k) := by
  refine ⟨_, rfl, ?_⟩
  obtain ⟨c, -, e⟩ | ⟨-, e⟩ | ⟨-, e⟩ | ⟨-, -, -, e⟩ := hostOp_cases .init (initBody k) s <;> rw [e]
  · exact .inl (State.Keeps.refl s)
  · exact .inl (State.Keeps.refl s)
  · exact .inl (State.Keeps.refl s)
  · exact .inr (by rw [initBody_go, Flow.final_go])

/-- The commit of a calibration: `calibrated`, the outcome OK, the cache's raw coordinates cleared (R240, R242). -/
def State.Committed (t : State) : Prop :=
  t.st.calibrated = true ∧ t.result = some .ok ∧ t.st.lastTx = 0 ∧ t.st.lastTy = 0

/-- The end of a calibration keeps all, or it commits the words and keeps the rest. -/
def State.KeepsOrCommits (s t : State) : Prop :=
  s.Keeps t ∨ (s.Extends t ∧ t.st.dispDiv = s.st.dispDiv ∧ t.Committed)

section Polls
variable {s₀ s : State}

theorem finishCal_keepsOrCommits (h : s₀.Keeps s) : s₀.KeepsOrCommits (finishCal s).final := by
  have hturned : s₀.Keeps (setOrientationBody s.st.calSaved.byte { s with st := { s.st with calI := 3 } }).final :=
    setOrientationBody_keeps _ h
  unfold finishCal
  generalize setOrientationBody _ _ = f at hturned ⊢
  cases f with
  | stop t => exact .inl hturned
  | go t =>
    dsimp only [Flow.map_go, Flow.final_go]
    split
    · exact .inl hturned
    · obtain ⟨hext, hdiv, -, -⟩ := hturned
      exact .inr ⟨hext, hdiv, rfl, rfl, rfl, rfl⟩

/-- A valid poll of point `i`: only the last point's can commit (R231). -/
theorem acceptPoint_keepsOrCommits (fg bg : U16) (i : Nat) (tx ty : U16) (h : s₀.Keeps s) :
    s₀.Keeps (acceptPoint fg bg i tx ty s).final ∨
      (2 ≤ i ∧ s₀.KeepsOrCommits (acceptPoint fg bg i tx ty s).final) := by
  have hack : s₀.Keeps (acknowledge (refPoint i) fg bg
      { s with st := { s.st with calT := s.st.calT.set i { x := tx, y := ty } } }).final := fillRectBody_keeps _ _ h
  have hcleared := Flow.keeps_andThen hack fun _ ht => fillScreenBody_keeps bg ht
  unfold acceptPoint
  by_cases hi : i < 2
  · refine .inl (Flow.keeps_andThen hcleared fun t ht => ?_)
    rw [if_pos hi]
    exact fillAll_keeps _ ht
  · refine .inr ⟨by omega, Flow.final_andThen hcleared (fun _ ht => .inl ht) fun t ht => ?_⟩
    rw [if_neg hi]
    exact finishCal_keepsOrCommits ht

theorem pollBody_keepsOrCommits (fg bg : U16) (h : s₀.Keeps s) : s₀.Keeps (pollBody fg bg s).final ∨
    (2 ≤ s.st.calI ∧ s₀.KeepsOrCommits (pollBody fg bg s).final) := by
  cases hd : s.st.dcsN with
  | false => rw [pollBody, rawSample_conflict s hd]; exact .inl h
  | true =>
    obtain ⟨os, hraw | ⟨p, tx, ty, hraw⟩⟩ := rawSample_sampled hd
    · rw [pollBody_noTouch hraw]
      exact .inl (h.sampled os)
    · rw [pollBody_touch hraw]
      exact acceptPoint_keepsOrCommits fg bg _ tx ty (h.sampled os)

end Polls

/-! ### Steps -/

/-- What a step does to the ROM, the parameters, the record, the divisor and the calibration words: it keeps all of
them, or it accepts INIT, or it ends a calibration with its commit. -/
theorem step_keeps_or {s t : State} (hstep : step s = .next t) :
    s.Keeps t ∨
    (∃ k rest, s.activity = .idle ∧ s.issue = .host [0x01, k.setWidth 8] :: rest ∧
      t = State.initEntered k { s with issue := rest }) ∨
    ((∃ fg bg, s.activity = .polling fg bg) ∧ s.st.calI = 2 ∧ s.Extends t ∧ t.st.dispDiv = s.st.dispDiv ∧
      t.Committed) := by
  have hrefl := State.Keeps.refl s
  have hanswer {a : Answer} (ha : step s = a) (hkeeps : AnswerKeeps s a) : s.Keeps t := by
    rw [← ha, hstep] at hkeeps
    exact hkeeps
  cases step_case s with
  | waits _ _ hwait => exact .inl (hanswer hwait hrefl)
  | packet p rest i hidle hissue hcode hrun =>
    by_cases hi : ∃ k, i = .initBlock k
    · obtain ⟨k, rfl⟩ := hi
      obtain ⟨u, hexec, hu⟩ := exec_initBlock_cases k { s with issue := rest }
      obtain rfl := Host.Outcome.next.inj ((hstep.symm.trans hrun).trans hexec)
      obtain hkeeps | rfl := hu
      · exact .inl hkeeps
      · cases p <;> cases hcode
        exact .inr (.inl ⟨k, rest, hidle, hissue, rfl⟩)
    · exact .inl (hanswer hrun (exec_keeps (s := { s with issue := rest }) hrefl i fun k hk => hi ⟨k, hk⟩))
  | rejected bs rest k code _ _ hrej =>
    exact .inl (hanswer hrej (hostOp_keeps (s := { s with issue := rest }) hrefl hrefl))
  | notSent _ _ _ _ _ hrefused => cases hstep.symm.trans hrefused
  | romByte b hact hread hrun =>
    have hadvanced : s.Keeps (s.onSt (fun st => { st with ip := st.ip + 1 })) := hrefl
    refine .inl (hanswer hrun (exec_keeps hadvanced _ fun k hk => ?_))
    have hcode := (encode_decodeRom b).2
    rw [hk] at hcode
    cases hcode
  | romEnd _ hend => exact .inl (hanswer hend (stepOp_keeps hrefl hrefl))
  | initTail _ htail => exact .inl (hanswer htail (stepOp_keeps hrefl (initTailBody_keeps hrefl)))
  | poll fg bg hact hi hpoll =>
    obtain rfl := Host.Outcome.next.inj (hstep.symm.trans hpoll)
    cases hfault : s.st.fault with
    | some c => rw [stepOp_stuck _ hfault]; exact .inl hrefl
    | none =>
      rw [stepOp_admitted _ _ hfault]
      obtain hkeeps | ⟨hlast, hkeeps | ⟨hext, hdiv, hcommit⟩⟩ := pollBody_keepsOrCommits fg bg hrefl
      · exact .inl hkeeps
      · exact .inl hkeeps
      · exact .inr (.inr ⟨⟨fg, bg, hact⟩, by omega, hext, hdiv, hcommit⟩)
  | noPoint _ _ _ _ hfault => cases hstep.symm.trans hfault

/-- Settles O56: each of the three extends the record and keeps the ROM and the parameters. -/
theorem romIsNeverWritten : Obligations.RomIsNeverWritten := by
  intro s t hstep
  obtain ⟨hext, -⟩ | ⟨k, rest, -, -, rfl⟩ | ⟨-, -, hext, -⟩ := step_keeps_or hstep
  · exact hext
  · exact State.extends_initEntered k { s with issue := rest }
  · exact hext

/-- Settles O57: INIT clears `calibrated` and keeps the words; only a commit is left. -/
theorem calibrationWordsWrittenOnlyByCalibration : Obligations.CalibrationWordsWrittenOnlyByCalibration := by
  intro s t hstep hwritten
  obtain ⟨-, -, hcal, hcalibrated⟩ | ⟨k, rest, -, -, rfl⟩ | ⟨hact, hi, -, -, hcommit⟩ := step_keeps_or hstep
  · obtain hne | ⟨htrue, hfalse⟩ := hwritten
    · exact absurd hcal hne
    · rw [hcalibrated htrue] at hfalse
      cases hfalse
  · obtain hne | ⟨htrue, -⟩ := hwritten
    · exact absurd rfl hne
    · cases htrue
  · exact ⟨hact, hi, hcommit⟩

/-- Settles O58: of the three only INIT writes the divisor, and its packet carries it in three bits. -/
theorem displayDivisorWrittenOnlyByInit : Obligations.DisplayDivisorWrittenOnlyByInit := by
  intro s t hstep hwritten
  obtain ⟨-, hdiv, -⟩ | ⟨k, rest, hidle, hissue, rfl⟩ | ⟨-, -, -, hdiv, -⟩ := step_keeps_or hstep
  · exact absurd hdiv hwritten
  · have hk : (k.setWidth 8).setWidth 3 = k := by bv_omega
    exact ⟨k.setWidth 8, rest, hidle, hissue, hk.symm, rfl⟩
  · exact absurd hdiv hwritten

end Sys2Proof.Machine

/-! PROOF that the calibration words are not read while the block is not calibrated (R30, R37 item 6). Two states that
differ in these words only stay so through every part of an operation, but for the commit, which overwrites them. -/

namespace Sys2Proof.Machine

/-! ### A state with other calibration words -/

/-- The state with the calibration words replaced. -/
def State.withCal (w : CalWords) (s : State) : State := s.onSt (fun b => { b with cal := w })

/-- The end of a part of an operation with the calibration words replaced. -/
def Flow.withCal (w : CalWords) : Flow → Flow
  | .go s => .go (s.withCal w)
  | .stop s => .stop (s.withCal w)

/-- A part of an operation that does not read the calibration words: with others in their place it does the same, and
leaves those. -/
def Blind (w : CalWords) (body : State → Flow) : Prop := ∀ s, body (s.withCal w) = (body s).withCal w

variable {w : CalWords}

@[simp] theorem Flow.withCal_final (f : Flow) : (f.withCal w).final = f.final.withCal w := by cases f <;> rfl

theorem Flow.withCal_andThen {k : State → Flow} (hk : Blind w k) (f : Flow) :
    (f.withCal w).andThen k = (f.andThen k).withCal w := by
  cases f with
  | go s => exact hk s
  | stop s => rfl

theorem Flow.withCal_map {k : State → State} (hk : ∀ s, k (s.withCal w) = (k s).withCal w) (f : Flow) :
    (f.withCal w).map k = (f.map k).withCal w := by
  cases f with
  | go s => exact congrArg Flow.go (hk s)
  | stop s => rfl

theorem Blind.andThen {f k : State → Flow} (hf : Blind w f) (hk : Blind w k) : Blind w (fun s => (f s).andThen k) :=
  fun s => (congrArg (Flow.andThen · k) (hf s)).trans (Flow.withCal_andThen hk (f s))

theorem Blind.map {f : State → Flow} {k : State → State} (hf : Blind w f)
    (hk : ∀ s, k (s.withCal w) = (k s).withCal w) : Blind w (fun s => (f s).map k) :=
  fun s => (congrArg (Flow.map · k) (hf s)).trans (Flow.withCal_map hk (f s))

theorem fail_blind (code : FaultCode) : Blind w (fail code) := fun _ => rfl

theorem requireNoBracket_blind {body : State → Flow} (hbody : Blind w body) : Blind w (requireNoBracket body) := by
  intro s
  cases hd : s.st.dcsN with
  | true => rw [requireNoBracket_go (by exact hd), requireNoBracket_go hd, hbody s]
  | false => rw [requireNoBracket_stop (by exact hd), requireNoBracket_stop hd]; rfl

/-! ### Words and display operations -/

theorem word_blind (dcx : Bool) (b : Byte) : Blind w (word dcx b) := by
  intro s
  cases hd : s.st.dcsN with
  | true => rw [word_stop _ _ _ (by exact hd), word_stop _ _ _ hd]; rfl
  | false => rw [word_go _ _ _ (by exact hd), word_go _ _ _ hd]; rfl

theorem words_blind (ws : List (Bool × Byte)) : Blind w (words ws) := by
  induction ws with
  | nil => exact fun _ => rfl
  | cons v ws ih => exact (word_blind v.1 v.2).andThen ih

theorem bracketed_blind (ws : List (Bool × Byte)) : Blind w (bracketed ws) :=
  Blind.map (f := fun s => words ws (State.writeDcs false s)) (fun s => words_blind ws (State.writeDcs false s))
    fun _ => rfl

theorem setArea_blind (x0 y0 x1 y1 : U16) : Blind w (setArea x0 y0 x1 y1) :=
  (bracketed_blind _).andThen (bracketed_blind _)

theorem batchStartBody_blind (x y ww h : U16) : Blind w (batchStartBody x y ww h) := by
  refine requireNoBracket_blind fun s => ?_
  dsimp only
  split
  · rw [setArea_blind, Flow.withCal_map, Flow.withCal_andThen, Flow.withCal_map]
    · exact fun _ => rfl
    · exact word_blind _ _
    · exact fun _ => rfl
  · exact fail_blind _ s

theorem batchDrawBody_blind (c : U16) : Blind w (batchDrawBody c) := by
  intro s
  cases hb : s.st.inBatch with
  | true => rw [batchDrawBody, batchDrawBody, if_pos (by exact hb), if_pos hb, words_blind]
  | false => rw [batchDrawBody_stop c (by exact hb), batchDrawBody_stop c hb]; rfl

theorem batchStopBody_blind : Blind w batchStopBody := by
  intro s
  cases hb : s.st.inBatch with
  | true => rw [batchStopBody_go _ (by exact hb), batchStopBody_go _ hb]; rfl
  | false => rw [batchStopBody_stop (by exact hb), batchStopBody_stop hb]; rfl

theorem drawTimes_blind (c : U16) (n : Nat) : Blind w (drawTimes c n) := by
  induction n with
  | zero => exact fun _ => rfl
  | succ n ih => exact (batchDrawBody_blind c).andThen ih

theorem solidBatch_blind (r : Rect) (c : U16) (n : Nat) : Blind w (solidBatch r c n) :=
  ((batchStartBody_blind _ _ _ _).andThen (drawTimes_blind c n)).andThen batchStopBody_blind

theorem drawPixelBody_blind (x y c : U16) : Blind w (drawPixelBody x y c) := by
  refine requireNoBracket_blind fun s => ?_
  by_cases hout : s.st.width.toNat ≤ x.toNat ∨ s.st.height.toNat ≤ y.toNat
  · rw [if_pos (by exact hout), if_pos hout]; rfl
  · rw [if_neg (by exact hout), if_neg hout, solidBatch_blind]

theorem fillRectBody_blind (r : Rect) (c : U16) : Blind w (fillRectBody r c) := by
  refine requireNoBracket_blind fun s => ?_
  have hsize : clampRect (s.withCal w).st.width (s.withCal w).st.height r = clampRect s.st.width s.st.height r := rfl
  simp only [hsize, solidBatch_blind _ _ _ s]
  split <;> rfl

theorem fillScreenBody_blind (c : U16) : Blind w (fillScreenBody c) :=
  requireNoBracket_blind fun s => solidBatch_blind _ _ _ s

theorem setOrientationBody_blind (o : Byte) : Blind w (setOrientationBody o) := by
  refine requireNoBracket_blind fun s => ?_
  split
  · rw [applyOrientation_go, applyOrientation_go]; rfl
  · exact fail_blind _ s

theorem setInvertedBody_blind (inv : Bool) : Blind w (setInvertedBody inv) :=
  requireNoBracket_blind (bracketed_blind _)

theorem fillAll_blind (l : List (Rect × U16)) : Blind w (fillAll l) := by
  induction l with
  | nil => exact fun _ => rfl
  | cons q l ih => exact (fillRectBody_blind q.1 q.2).andThen ih

theorem crosshair_blind (p : RawPoint) (fg bg : U16) : Blind w (crosshair p fg bg) := fillAll_blind _

theorem beginBody_blind : Blind w beginBody := by
  intro s
  cases hd : s.st.dcsN with
  | true => rw [beginBody_go (by exact hd), beginBody_go hd]; rfl
  | false => rw [beginBody_stop (by exact hd), beginBody_stop hd]; rfl

theorem endBody_blind : Blind w endBody := by
  intro s
  cases hd : s.st.dcsN with
  | true => rw [endBody_stop (by exact hd), endBody_stop hd]; rfl
  | false => rw [endBody_go (by exact hd), endBody_go hd]; rfl

/-! ### Touch sampling -/

/-- A raw sample with the calibration words replaced. -/
def Sampled.withCal (w : CalWords) : Sampled → Sampled
  | .conflict s => .conflict (s.withCal w)
  | .noTouch s => .noTouch (s.withCal w)
  | .touch p tx ty s => .touch p tx ty (s.withCal w)

theorem State.sampled_withCal (os : List Byte) (s : State) : (s.withCal w).sampled os = (s.sampled os).withCal w := by
  have hevents : touchEvents (s.withCal w) os 0 = touchEvents s os 0 :=
    touchEvents_shift s (s.withCal w) 0 os 0 rfl rfl
  simp only [State.sampled, touchRecord, hevents]
  rfl

theorem rawSample_withCal (s : State) : rawSample (s.withCal w) = (rawSample s).withCal w := by
  cases hd : s.st.dcsN with
  | false => rw [rawSample_conflict _ (by exact hd), rawSample_conflict s hd]; rfl
  | true =>
    have hp : pressureAt (s.withCal w) = pressureAt s := rfl
    have haxis k : axisAt (s.withCal w) k = axisAt s k := rfl
    have hparams : (s.withCal w).params = s.params := rfl
    rw [rawSample_eq _ (by exact hd), rawSample_eq s hd]
    simp only [hp, haxis, hparams, State.sampled_withCal]
    split_ifs <;> rfl

theorem touchRawBody_blind : Blind w touchRawBody := by
  intro s
  rw [touchRawBody, touchRawBody, rawSample_withCal]
  cases rawSample s <;> rfl

theorem touchXfer_withCal (o : Byte) (s : State) : touchXfer o (s.withCal w) = (touchXfer o s).withCal w := rfl

/-- A conversion that does not read the calibration words. -/
def BlindConversion (w : CalWords) (conversion : State → U16 × State) : Prop :=
  ∀ s, conversion (s.withCal w) = ((conversion s).1, (conversion s).2.withCal w)

theorem conversion8_blind (cmd : Byte) : BlindConversion w (conversion8 cmd) := fun _ => rfl

theorem sampleAxis_blind (cmd : Byte) : BlindConversion w (sampleAxis cmd) := fun _ => rfl

theorem touchStep_blind {conversion : State → U16 × State} (hconv : BlindConversion w conversion) :
    Blind w (touchStep conversion) := by
  intro s
  unfold touchStep
  rw [hconv s]
  by_cases hd : s.st.dcsN = true
  · rw [if_pos (by exact hd), if_pos hd]; rfl
  · rw [if_neg (by exact hd), if_neg hd]; rfl

/-! ### The read, INIT, the calibration up to its end -/

/-- An uncalibrated read answers before it would read a word (R261). -/
theorem touchReadBody_withCal {s : State} (h : s.st.calibrated = false) :
    touchReadBody (s.withCal w) = (touchReadBody s).withCal w := by
  have hne : ¬s.st.calibrated = true := by simp [h]
  rw [touchReadBody, touchReadBody, if_neg (by exact hne), if_neg hne]
  rfl

theorem initBody_blind (k : DivCode) : Blind w (initBody k) := by
  intro s
  rw [initBody_go, initBody_go]
  rfl

theorem initTailBody_blind : Blind w initTailBody := by
  have hclosed : Blind w (fun s => (word false 0x29 s).map (State.writeDcs true)) := (word_blind _ _).map fun _ => rfl
  refine (hclosed.andThen (fillScreenBody_blind 0x0000)).map ?_
  exact fun _ => rfl

theorem runBytes_blind (dcx : Bool) (n : Nat) : Blind w (runBytes dcx n) := by
  induction n with
  | zero => exact fun _ => rfl
  | succ n ih =>
    refine Blind.andThen (f := readRom (fun b t => word dcx b t)) (fun s => ?_) ih
    cases hread : s.rom.read s.st.ip with
    | some b =>
      have hgo (t : State) (ht : t.rom.read t.st.ip = some b) :
          readRom (fun b t => word dcx b t) t = word dcx b (t.onSt (fun st => { st with ip := st.ip + 1 })) := by
        rw [readRom, ht]; rfl
      have hword := word_blind (w := w) dcx b (s.onSt (fun st => { st with ip := st.ip + 1 }))
      exact (hgo (s.withCal w) hread).trans (hword.trans (congrArg (Flow.withCal w) (hgo s hread).symm))
    | none =>
      have hstop (t : State) (ht : t.rom.read t.st.ip = none) :
          readRom (fun b t => word dcx b t) t = fail .badInitProgram t := by
        rw [readRom, ht]
      exact (hstop (s.withCal w) hread).trans (congrArg (Flow.withCal w) (hstop s hread).symm)

theorem calibrateBody_blind (fg bg : U16) : Blind w (calibrateBody fg bg) := by
  have hturned : Blind w (fun s => setOrientationBody Orientation.deg0.byte
      { s with st := { s.st with calSaved := s.st.orient } }) := fun s =>
    setOrientationBody_blind Orientation.deg0.byte { s with st := { s.st with calSaved := s.st.orient } }
  refine requireNoBracket_blind (((hturned.map ?_).andThen (crosshair_blind (refPoint 0) fg bg)).map ?_)
  · exact fun _ => rfl
  · exact fun _ => rfl

/-! ### Instructions -/

/-- The answer with its next state changed. -/
def onNext (f : State → State) : Answer → Answer
  | .next s => .next (f s)
  | .fault r => .fault r
  | .refused r => .refused r

theorem hostOp_withCal (k : OpClass) {body : State → Flow} {s : State}
    (hbody : body (s.withCal w) = (body s).withCal w) : hostOp k body (s.withCal w) = (hostOp k body s).withCal w := by
  have hsame : (s.withCal w).st.fault = s.st.fault ∧ (s.withCal w).st.initDone = s.st.initDone ∧
    (s.withCal w).st.inBatch = s.st.inBatch := ⟨rfl, rfl, rfl⟩
  obtain ⟨hfault, hinit, hbatch⟩ := hsame
  unfold hostOp
  rw [hfault, hinit, hbatch, hbody, Flow.withCal_final]
  split
  · rfl
  · split_ifs <;> rfl

theorem plainOp_withCal (k : OpClass) {body : State → Flow} (hbody : Blind w body) (s : State) :
    plainOp k body (s.withCal w) = (plainOp k body s).withCal w :=
  hostOp_withCal k (hbody.map (by exact fun _ => rfl) s)

theorem stepOp_withCal {body : State → Flow} (hbody : Blind w body) (s : State) :
    stepOp body (s.withCal w) = (stepOp body s).withCal w := by
  cases hfault : s.st.fault with
  | some c => rw [stepOp_stuck body (by exact hfault), stepOp_stuck body hfault]; rfl
  | none => rw [stepOp_admitted _ _ (by exact hfault), stepOp_admitted _ _ hfault, hbody s, Flow.withCal_final]

/-- While the block is not calibrated no instruction reads the calibration words. -/
theorem exec_withCal (i : Instr) {s : State} (h : s.st.calibrated = false) :
    exec i (s.withCal w) = onNext (State.withCal w) (exec i s) := by
  have hwire : ∀ v, encode i = .wire v → exec i (s.withCal w) = onNext (State.withCal w) (exec i s) := fun v hv => by
    rw [exec_of_encode_wire hv, exec_of_encode_wire hv, stepOp_withCal (word_blind _ _)]
    rfl
  have hnext {t u : State} (htu : t = u.withCal w) : Host.Outcome.next t = onNext (State.withCal w) (.next u) :=
    congrArg Host.Outcome.next htu
  cases i with
  | endProgram => exact hnext (stepOp_withCal (fun _ => rfl) s)
  | dataRun n => exact hnext (stepOp_withCal (runBytes_blind _ _) s)
  | cmdRun n => exact hnext (stepOp_withCal (runBytes_blind _ _) s)
  | reservedInit b => exact hnext (stepOp_withCal (fail_blind _) s)
  | touchZ1 => exact hnext (stepOp_withCal (touchStep_blind (conversion8_blind _)) s)
  | touchZ2 => exact hnext (stepOp_withCal (touchStep_blind (conversion8_blind _)) s)
  | touchX => exact hnext (stepOp_withCal (touchStep_blind (sampleAxis_blind _)) s)
  | touchY => exact hnext (stepOp_withCal (touchStep_blind (sampleAxis_blind _)) s)
  | initBlock k => exact hnext (hostOp_withCal _ (initBody_blind k s))
  | beginTx => exact hnext (plainOp_withCal _ beginBody_blind s)
  | endTx => exact hnext (plainOp_withCal _ endBody_blind s)
  | sendCmd b => exact hnext (plainOp_withCal _ (word_blind _ _) s)
  | sendData b => exact hnext (plainOp_withCal _ (word_blind _ _) s)
  | sendData16 v => exact hnext (plainOp_withCal _ (words_blind _) s)
  | setOrientation o => exact hnext (plainOp_withCal _ (setOrientationBody_blind o) s)
  | setInverted inv => exact hnext (plainOp_withCal _ (setInvertedBody_blind inv) s)
  | batchStart x y ww hh => exact hnext (plainOp_withCal _ (batchStartBody_blind x y ww hh) s)
  | batchDraw c => exact hnext (plainOp_withCal _ (batchDrawBody_blind c) s)
  | batchStop => exact hnext (plainOp_withCal _ batchStopBody_blind s)
  | drawPixel x y c => exact hnext (plainOp_withCal _ (drawPixelBody_blind x y c) s)
  | fillRect x y ww hh c => exact hnext (plainOp_withCal _ (fillRectBody_blind _ c) s)
  | fillScreen c => exact hnext (plainOp_withCal _ (fillScreenBody_blind c) s)
  | touchRawRead => exact hnext (hostOp_withCal _ (touchRawBody_blind s))
  | touchCalibrate fg bg => exact hnext (hostOp_withCal _ (calibrateBody_blind fg bg s))
  | touchRead => exact hnext (hostOp_withCal _ (touchReadBody_withCal h))
  | setBrightness pct => exact hnext (plainOp_withCal _ (fail_blind _) s)
  | _ => exact hwire _ rfl

/-! ### Polls and steps -/

/-- The state with the calibration words replaced, unless a commit has just written them. -/
def State.withCalUncommitted (w : CalWords) (s : State) : State := if s.st.calibrated then s else s.withCal w

theorem State.withCalUncommitted_of_keeps {s t : State} (h : s.st.calibrated = false) (hkeeps : s.Keeps t) :
    t.withCalUncommitted w = t.withCal w := by
  obtain ⟨-, -, -, hcalibrated⟩ := hkeeps
  refine if_neg fun ht => ?_
  rw [hcalibrated ht] at h
  cases h

section Polls
variable {s₀ s : State}

/-- The end of a calibration: a failure leaves the words, a commit overwrites them (R240). -/
theorem finishCal_withCal (h₀ : s₀.st.calibrated = false) (h : s₀.Keeps s) :
    (finishCal (s.withCal w)).final = (finishCal s).final.withCalUncommitted w := by
  have hturned : s₀.Keeps (setOrientationBody s.st.calSaved.byte { s with st := { s.st with calI := 3 } }).final :=
    setOrientationBody_keeps _ h
  have hblind : setOrientationBody (s.withCal w).st.calSaved.byte
      { s.withCal w with st := { (s.withCal w).st with calI := 3 } } =
      (setOrientationBody s.st.calSaved.byte { s with st := { s.st with calI := 3 } }).withCal w :=
    setOrientationBody_blind s.st.calSaved.byte { s with st := { s.st with calI := 3 } }
  have hwords : computeCal (s.withCal w).params.calArith (s.withCal w).st.calT
      = computeCal s.params.calArith s.st.calT := rfl
  unfold finishCal
  rw [hblind, hwords]
  generalize computeCal s.params.calArith s.st.calT = k
  generalize setOrientationBody _ _ = f at hturned ⊢
  cases f with
  | stop t => exact (State.withCalUncommitted_of_keeps h₀ hturned).symm
  | go t =>
    dsimp only [Flow.withCal, Flow.map_go, Flow.final_go]
    split
    · exact (State.withCalUncommitted_of_keeps (t := { t with activity := .idle, result := some .calFailed })
        h₀ hturned).symm
    · rfl

theorem acceptPoint_withCal (h₀ : s₀.st.calibrated = false) (h : s₀.Keeps s) (fg bg : U16) (i : Nat) (tx ty : U16) :
    (acceptPoint fg bg i tx ty (s.withCal w)).final = (acceptPoint fg bg i tx ty s).final.withCalUncommitted w := by
  have hack : s₀.Keeps (acknowledge (refPoint i) fg bg
      { s with st := { s.st with calT := s.st.calT.set i { x := tx, y := ty } } }).final := fillRectBody_keeps _ _ h
  have hcleared := Flow.keeps_andThen hack fun _ ht => fillScreenBody_keeps bg ht
  have hblind : acknowledge (refPoint i) fg bg
      { s.withCal w with st := { (s.withCal w).st with calT := (s.withCal w).st.calT.set i { x := tx, y := ty } } } =
      (acknowledge (refPoint i) fg bg
        { s with st := { s.st with calT := s.st.calT.set i { x := tx, y := ty } } }).withCal w :=
    fillRectBody_blind _ _ { s with st := { s.st with calT := s.st.calT.set i { x := tx, y := ty } } }
  unfold acceptPoint
  rw [hblind, Flow.withCal_andThen (fillScreenBody_blind bg)]
  generalize (acknowledge _ _ _ _).andThen _ = f at hcleared ⊢
  cases f with
  | stop t => exact (State.withCalUncommitted_of_keeps h₀ hcleared).symm
  | go t =>
    dsimp only [Flow.withCal, Flow.andThen_go]
    by_cases hi : i < 2
    · rw [if_pos hi, if_pos hi]
      have hnext := crosshair_blind (w := w) (refPoint (i + 1)) fg bg { t with st := { t.st with calI := i + 1 } }
      have hkeeps : s₀.Keeps (crosshair (refPoint (i + 1)) fg bg { t with st := { t.st with calI := i + 1 } }).final :=
        fillAll_keeps _ hcleared
      rw [State.withCalUncommitted_of_keeps h₀ hkeeps, ← Flow.withCal_final, ← hnext]
      rfl
    · rw [if_neg hi, if_neg hi]
      exact finishCal_withCal h₀ hcleared

theorem pollBody_withCal (h : s.st.calibrated = false) (fg bg : U16) :
    (pollBody fg bg (s.withCal w)).final = (pollBody fg bg s).final.withCalUncommitted w := by
  have hraw := rawSample_keeps (State.Keeps.refl s)
  unfold pollBody
  rw [rawSample_withCal]
  generalize rawSample s = r at hraw ⊢
  cases r with
  | conflict t => exact (State.withCalUncommitted_of_keeps h hraw).symm
  | noTouch t => exact (State.withCalUncommitted_of_keeps h hraw).symm
  | touch p tx ty t => exact acceptPoint_withCal h hraw fg bg _ tx ty

end Polls

/-- An instruction commits no calibration. -/
theorem exec_withCalUncommitted (i : Instr) {s : State} (h : s.st.calibrated = false) :
    exec i (s.withCal w) = onNext (State.withCalUncommitted w) (exec i s) := by
  rw [exec_withCal i h]
  obtain ⟨t, hexec⟩ := exec_next i s
  suffices hsame : t.withCalUncommitted w = t.withCal w by rw [hexec, onNext, onNext, hsame]
  by_cases hi : ∃ k, i = .initBlock k
  · obtain ⟨k, rfl⟩ := hi
    obtain ⟨u, hinit, hu⟩ := exec_initBlock_cases k s
    obtain rfl := Host.Outcome.next.inj (hexec.symm.trans hinit)
    obtain hkeeps | rfl := hu
    · exact State.withCalUncommitted_of_keeps h hkeeps
    · rfl
  · have hkeeps := exec_keeps (State.Keeps.refl s) i fun k hk => hi ⟨k, hk⟩
    rw [hexec] at hkeeps
    exact State.withCalUncommitted_of_keeps h hkeeps

theorem rejectPacket_withCal (e : DecodeError) (s : State) :
    rejectPacket e (s.withCal w) = onNext (State.withCal w) (rejectPacket e s) := by
  cases e with
  | touchByteNotSent b => rfl
  | _ => exact congrArg Host.Outcome.next (hostOp_withCal _ (fail_blind _ s))

/-- While the block is not calibrated no step reads the calibration words. -/
theorem step_withCal {s : State} (h : s.st.calibrated = false) :
    step (s.withCal w) = onNext (State.withCalUncommitted w) (step s) := by
  have hrefl := State.Keeps.refl s
  have hanswer {t : State} (hkeeps : s.Keeps t) :
      Host.Outcome.next (t.withCal w) = onNext (State.withCalUncommitted w) (.next t) :=
    congrArg Host.Outcome.next (State.withCalUncommitted_of_keeps h hkeeps).symm
  cases hact : s.activity with
  | idle =>
    cases hissue : s.issue with
    | nil =>
      rw [step_idle_nothing hact hissue, step_idle_nothing (s := s.withCal w) hact hissue]
      exact hanswer hrefl
    | cons p rest =>
      cases hdec : decode p.code with
      | ok i =>
        rw [step_idle_ok hact hissue hdec, step_idle_ok (s := s.withCal w) hact hissue hdec]
        exact exec_withCalUncommitted (s := { s with issue := rest }) i h
      | error e =>
        rw [step_idle_error hact hissue hdec, step_idle_error (s := s.withCal w) hact hissue hdec]
        refine (rejectPacket_withCal e { s with issue := rest }).trans ?_
        cases e with
        | touchByteNotSent b => rfl
        | _ => exact hanswer (hostOp_keeps (s := { s with issue := rest }) hrefl hrefl)
  | initProgram =>
    cases hread : s.rom.read s.st.ip with
    | some b =>
      rw [step_initProgram_byte hact hread, step_initProgram_byte (s := s.withCal w) hact hread]
      exact exec_withCalUncommitted (s := s.onSt (fun st => { st with ip := st.ip + 1 })) _ h
    | none =>
      rw [step_initProgram_end hact hread, step_initProgram_end (s := s.withCal w) hact hread,
        stepOp_withCal (fail_blind _)]
      exact hanswer (stepOp_keeps hrefl hrefl)
  | initTail =>
    rw [step_initTail hact, step_initTail (s := s.withCal w) hact, stepOp_withCal initTailBody_blind]
    exact hanswer (stepOp_keeps hrefl (initTailBody_keeps hrefl))
  | polling fg bg =>
    rw [step_polling hact, step_polling (s := s.withCal w) hact, pollStep, pollStep]
    by_cases hi : s.st.calI ≤ 2
    · rw [if_pos hi, if_pos (by exact hi)]
      cases hfault : s.st.fault with
      | some c =>
        rw [stepOp_stuck _ hfault, stepOp_stuck (s := s.withCal w) _ hfault]
        exact hanswer (t := { s.setResult (.faulted c) with activity := .idle }) hrefl
      | none =>
        rw [stepOp_admitted _ _ hfault, stepOp_admitted _ (s.withCal w) hfault, pollBody_withCal h]
        rfl
    · rw [if_neg hi, if_neg (by exact hi)]
      rfl

/-- Settles O59: the instructions by `exec_withCal`, the steps by `step_withCal`. -/
theorem uncalibratedWordsAreNeverRead : Obligations.UncalibratedWordsAreNeverRead := by
  rintro s s' w h rfl
  have hstep := step_withCal (w := w) h
  refine ⟨fun i t ht => ?_, fun t ht => ?_, fun hstop => ?_⟩
  · have hexec := exec_withCal (w := w) i h
    rw [ht] at hexec
    exact hexec
  · rw [ht] at hstep
    exact hstep
  · cases ha : step s with
    | next t => exact absurd ha (hstop t)
    | fault r => rw [ha] at hstep; exact hstep
    | refused r => rw [ha] at hstep; exact hstep

end Sys2Proof.Machine

/-! PROOFS that every step keeps the invariant (R37 and `State.Inv`), and what holds after any run. The invariant is first
written as a conjunction of what it says of the block and of the rest, so that a write to a field it does not speak of
keeps it as it stands. -/

namespace Sys2Proof.Machine

/-! ### The invariant in parts -/

/-- What the invariant says of the block record (R28, R37). -/
def Block.Ok (arith : CalArith) (b : Block) : Prop :=
  (b.initDone = true → b.spe = true) ∧ (b.initDone = true → b.order = .msbFirst) ∧ b.tcsN = true ∧
  b.div = b.dispDiv ∧ (b.inBatch = true → b.dcsN = false) ∧ b.DimsAgree ∧
  (b.calibrated = true → denominatorNonzero arith b.cal) ∧ (b.lastTx ≠ 0 → b.sxC.toNat < Config.lcdWidth) ∧
  (b.lastTy ≠ 0 → b.syC.toNat < Config.lcdHeight)

/-- The invariant but for the operation in progress. -/
def State.Steady (s : State) : Prop := s.rom.wf = true ∧ s.ctl.Ok ∧ s.st.Ok s.params.calArith

/-- The invariant, as a conjunction. -/
def State.Sound (s : State) : Prop := s.Steady ∧ s.ActivityOk

/-- The invariant between operations. -/
def State.Settled (s : State) : Prop := s.Steady ∧ s.activity = .idle

theorem State.inv_iff_sound {s : State} : s.Inv ↔ s.Sound :=
  ⟨fun ⟨hrom, hctl, hspe, horder, htcs, hdiv, hbatch, hdims, hden, hx, hy, hact⟩ =>
    ⟨⟨hrom, hctl, hspe, horder, htcs, hdiv, hbatch, hdims, hden, hx, hy⟩, hact⟩,
  fun ⟨⟨hrom, hctl, hspe, horder, htcs, hdiv, hbatch, hdims, hden, hx, hy⟩, hact⟩ =>
    ⟨hrom, hctl, hspe, horder, htcs, hdiv, hbatch, hdims, hden, hx, hy, hact⟩⟩

theorem State.Settled.sound {s : State} (h : s.Settled) : s.Sound :=
  ⟨h.1, by rw [State.ActivityOk, h.2]; trivial⟩

/-! ### The block's writes -/

section Blocks
variable {arith : CalArith} {b : Block}

theorem Block.Ok.afterWord (h : b.Ok arith) (dcx : Bool) : (b.afterWord dcx).Ok arith := by
  obtain ⟨-, hrest⟩ := h
  exact ⟨fun _ => rfl, hrest⟩

theorem Block.Ok.select (h : b.Ok arith) : Block.Ok arith { b with dcsN := false } := by
  obtain ⟨hspe, horder, htcs, hdiv, -, hrest⟩ := h
  exact ⟨hspe, horder, htcs, hdiv, fun _ => rfl, hrest⟩

/-- Outside a batch the display may be released. -/
theorem Block.Ok.release (h : b.Ok arith) : Block.Ok arith { b with dcsN := true, inBatch := false } := by
  obtain ⟨hspe, horder, htcs, hdiv, -, hrest⟩ := h
  exact ⟨hspe, horder, htcs, hdiv, nofun, hrest⟩

theorem Block.Ok.drawn (h : b.Ok arith) : b.drawn.Ok arith := (h.afterWord true).release

theorem Block.Ok.openBatch (h : b.Ok arith) : Block.Ok arith { b with dcsN := false, inBatch := true } := by
  obtain ⟨hspe, horder, htcs, hdiv, -, hrest⟩ := h
  exact ⟨hspe, horder, htcs, hdiv, fun _ => rfl, hrest⟩

/-- The dimensions written with the orientation they are those of (R168). -/
theorem Block.Ok.orient (h : b.Ok arith) (o : Orientation) : Block.Ok arith
    { b with width := orientWidth o.byte, height := orientHeight o.byte, orient := o } := by
  obtain ⟨hspe, horder, htcs, hdiv, hbatch, -, hrest⟩ := h
  exact ⟨hspe, horder, htcs, hdiv, hbatch, ⟨rfl, rfl⟩, hrest⟩

/-- The teardown of a touch sample (R208). -/
theorem Block.Ok.sampled (h : b.Ok arith) : Block.Ok arith { b with tcsN := true, div := b.dispDiv } := by
  obtain ⟨hspe, horder, -, -, hrest⟩ := h
  exact ⟨hspe, horder, rfl, rfl, hrest⟩

/-- A commit: the denominator is not zero, and the cache is marked empty (R240, R242). -/
theorem Block.Ok.commit (h : b.Ok arith) {w : CalWords} (hw : denominatorNonzero arith w) :
    Block.Ok arith { b with cal := w, calibrated := true, lastTx := 0, lastTy := 0 } := by
  obtain ⟨hspe, horder, htcs, hdiv, hbatch, hdims, -⟩ := h
  exact ⟨hspe, horder, htcs, hdiv, hbatch, hdims, fun _ => hw, fun h0 => absurd rfl h0, fun h0 => absurd rfl h0⟩

end Blocks

/-! ### Words (R130 to R140) -/

section States
variable {s t : State}

theorem word_sound (h : s.Sound) (dcx : Bool) (b : Byte) : (word dcx b s).final.Sound := by
  obtain ⟨⟨hrom, hctl, hst⟩, hact⟩ := h
  cases hd : s.st.dcsN with
  | true => rw [word_stop _ _ _ hd]; exact ⟨⟨hrom, hctl, hst⟩, trivial⟩
  | false => rw [word_go _ _ _ hd]; exact ⟨⟨hrom, Ctl.word_ok _ _ _ hctl, hst.afterWord dcx⟩, hact⟩

theorem runBytes_sound (dcx : Bool) (n : Nat) (h : s.Sound) : (runBytes dcx n s).final.Sound := by
  induction n generalizing s with
  | zero => exact h
  | succ n ih =>
    have hread : (readRom (fun b t => word dcx b t) s).final.Sound := by
      unfold readRom
      split
      · exact word_sound (s := { s with st := { s.st with ip := s.st.ip + 1 } }) h dcx _
      · exact ⟨h.1, trivial⟩
    exact Flow.final_andThen hread (fun _ ht => ht) fun _ ht => ih ht

theorem touchStep_sound {conversion : State → U16 × State} (h : s.Sound) (hconv : (conversion s).2.Sound) :
    (touchStep conversion s).final.Sound := by
  unfold touchStep
  split
  · exact hconv
  · exact ⟨h.1, trivial⟩

theorem stepOp_sound {body : State → Flow} (h : s.Sound) (hbody : s.st.fault = none → (body s).final.Sound) :
    (stepOp body s).Sound := by
  cases hfault : s.st.fault with
  | some c => rw [stepOp_stuck body hfault]; exact ⟨h.1, trivial⟩
  | none => rw [stepOp_admitted _ _ hfault]; exact hbody hfault

/-! ### Drawing between operations (R160 to R168) -/

theorem State.Drew.steady (hdrew : s.Drew t) (h : s.Steady) : t.Steady := by
  obtain ⟨hrom, hctl, hst⟩ := h
  obtain ⟨ws, hws⟩ := hdrew.ctl
  refine ⟨by rw [hdrew.rom]; exact hrom, by rw [hws]; exact Ctl.receive_ok ws _ hctl, ?_⟩
  rw [hdrew.params]
  obtain e | e := hdrew.st <;> rw [e]
  · exact hst
  · exact hst.drawn

theorem State.Drew.settled (hdrew : s.Drew t) (h : s.Settled) : t.Settled :=
  ⟨hdrew.steady h.1, hdrew.activity.trans h.2⟩

theorem State.Steady.oriented (h : s.Steady) (hbatch : s.st.inBatch = false) (o : Orientation) :
    (s.oriented o).Steady := by
  obtain ⟨hrom, hctl, hst⟩ := h
  have hreleased : Block.Ok s.params.calArith { s.st.afterWord true with dcsN := true } := by
    rw [← Block.afterWord_with_inBatch hbatch]; exact hst.drawn
  exact ⟨hrom, by rw [State.oriented, State.after_ctl]; exact Ctl.receive_ok _ _ hctl, hreleased.orient o⟩

theorem State.Settled.raise (h : s.Settled) (code : FaultCode) : (s.raise code).Settled := ⟨h.1, rfl⟩

theorem word_settled (h : s.Settled) (dcx : Bool) (b : Byte) : (word dcx b s).final.Settled := by
  cases hd : s.st.dcsN with
  | true => rw [word_stop _ _ _ hd]; exact h.raise _
  | false =>
    obtain ⟨⟨hrom, hctl, hst⟩, hact⟩ := h
    rw [word_go _ _ _ hd]
    exact ⟨⟨hrom, Ctl.word_ok _ _ _ hctl, hst.afterWord dcx⟩, hact⟩

theorem words_settled (ws : List (Bool × Byte)) (h : s.Settled) : (words ws s).final.Settled := by
  induction ws generalizing s with
  | nil => exact h
  | cons w ws ih => exact Flow.final_andThen (word_settled h w.1 w.2) (fun _ ht => ht) fun _ ht => ih ht

theorem requireNoBracket_settled {body : State → Flow} (h : s.Settled)
    (hbody : s.st.dcsN = true → (body s).final.Settled) : (requireNoBracket body s).final.Settled := by
  cases hd : s.st.dcsN with
  | true => rw [requireNoBracket_go hd]; exact hbody hd
  | false => rw [requireNoBracket_stop hd]; exact h.raise _

theorem State.Settled.drawable (h : s.Settled) (hd : s.st.dcsN = true) : s.Drawable := by
  obtain ⟨⟨-, -, -, -, -, -, -, hdims, -⟩, -⟩ := h
  exact State.drawable_of_dimsAgree hd hdims

theorem beginBody_settled (h : s.Settled) : (beginBody s).final.Settled := by
  cases hd : s.st.dcsN with
  | true =>
    obtain ⟨⟨hrom, hctl, hst⟩, hact⟩ := h
    rw [beginBody_go hd]
    exact ⟨⟨hrom, hctl, hst.select⟩, hact⟩
  | false => rw [beginBody_stop hd]; exact h.raise _

theorem endBody_settled (h : s.Settled) (hbatch : s.st.inBatch = false) : (endBody s).final.Settled := by
  cases hd : s.st.dcsN with
  | true => rw [endBody_stop hd]; exact h.raise _
  | false =>
    obtain ⟨⟨hrom, hctl, hst⟩, hact⟩ := h
    have hreleased : Block.Ok s.params.calArith { s.st with dcsN := true } := by
      have hb := hst.release; rw [← hbatch] at hb; exact hb
    rw [endBody_go hd]
    exact ⟨⟨hrom, hctl, hreleased⟩, hact⟩

theorem batchStartBody_settled (x y w hh : U16) (h : s.Settled) : (batchStartBody x y w hh s).final.Settled := by
  cases hd : s.st.dcsN with
  | false => rw [batchStartBody_bracket _ _ _ _ _ hd]; exact h.raise _
  | true =>
    cases hrange : rangeOk x w && rangeOk y hh with
    | false => rw [batchStartBody_badOperand _ _ _ _ _ hd hrange]; exact h.raise _
    | true =>
      obtain ⟨hx, hy⟩ := Bool.and_eq_true_iff.mp hrange
      obtain ⟨⟨hrom, hctl, hst⟩, hact⟩ := h
      rw [batchStartBody_go _ _ _ _ _ hd hx hy]
      exact ⟨⟨hrom, Ctl.receive_ok _ _ hctl, (hst.afterWord false).openBatch⟩, hact⟩

theorem batchDrawBody_settled (c : U16) (h : s.Settled) : (batchDrawBody c s).final.Settled := by
  cases hb : s.st.inBatch with
  | true => rw [batchDrawBody, if_pos hb]; exact words_settled _ h
  | false => rw [batchDrawBody_stop c hb]; exact h.raise _

theorem batchStopBody_settled (h : s.Settled) : (batchStopBody s).final.Settled := by
  cases hb : s.st.inBatch with
  | true =>
    obtain ⟨⟨hrom, hctl, hst⟩, hact⟩ := h
    rw [batchStopBody_go s hb]
    exact ⟨⟨hrom, hctl, hst.release⟩, hact⟩
  | false => rw [batchStopBody_stop hb]; exact h.raise _

theorem drawPixelBody_settled (x y c : U16) (h : s.Settled) : (drawPixelBody x y c s).final.Settled := by
  cases hd : s.st.dcsN with
  | false => rw [drawPixelBody, requireNoBracket_stop hd]; exact h.raise _
  | true =>
    by_cases hout : s.st.width.toNat ≤ x.toNat ∨ s.st.height.toNat ≤ y.toNat
    · rw [drawPixelBody_offScreen hd hout]; exact h
    · rw [drawPixelBody_onScreen hd (by omega) (by omega)]
      exact (State.drew_batched _ _ s).settled h

theorem fillRectBody_settled (r : Rect) (c : U16) (h : s.Settled) : (fillRectBody r c s).final.Settled := by
  cases hd : s.st.dcsN with
  | false => rw [fillRectBody, requireNoBracket_stop hd]; exact h.raise _
  | true => rw [fillRectBody_filled r c s (h.drawable hd)]; exact (State.drew_filledRect r c s).settled h

theorem fillScreenBody_settled (c : U16) (h : s.Settled) : (fillScreenBody c s).final.Settled := by
  cases hd : s.st.dcsN with
  | false => rw [fillScreenBody, requireNoBracket_stop hd]; exact h.raise _
  | true => rw [fillScreenBody_filled c s (h.drawable hd)]; exact (State.drew_filledScreen c s).settled h

theorem setOrientationBody_settled (o : Byte) (h : s.Settled) (hbatch : s.st.inBatch = false) :
    (setOrientationBody o s).final.Settled := by
  refine requireNoBracket_settled h fun _ => ?_
  split
  · next q _ => rw [applyOrientation_go]; exact ⟨h.1.oriented hbatch q, h.2⟩
  · exact h.raise _

theorem setInvertedBody_settled (inv : Bool) (h : s.Settled) (hbatch : s.st.inBatch = false) :
    (setInvertedBody inv s).final.Settled := by
  cases hd : s.st.dcsN with
  | false => rw [setInvertedBody, requireNoBracket_stop hd]; exact h.raise _
  | true =>
    obtain ⟨⟨hrom, hctl, hst⟩, hact⟩ := h
    have hreleased : Block.Ok s.params.calArith { s.st.afterWord false with dcsN := true } := by
      rw [← Block.afterWord_with_inBatch hbatch]; exact (hst.afterWord false).release
    rw [setInvertedBody_go inv hd]
    exact ⟨⟨hrom, Ctl.command_ok _ _ hctl, hreleased⟩, hact⟩

/-! ### Touch (R200 to R272) -/

theorem State.Steady.sampled (h : s.Steady) (os : List Byte) : (s.sampled os).Steady :=
  ⟨h.1, h.2.1, h.2.2.sampled⟩

theorem touchRawBody_settled (h : s.Settled) : (touchRawBody s).final.Settled := by
  cases hd : s.st.dcsN with
  | false => rw [touchRawBody, rawSample_conflict s hd]; exact h.raise _
  | true =>
    obtain ⟨os, hraw | ⟨p, tx, ty, hraw⟩⟩ := rawSample_sampled hd <;> rw [touchRawBody, hraw] <;>
      exact ⟨h.1.sampled os, h.2⟩

/-- The cached x coordinate of a reading is on the screen: kept from an earlier one, or clamped (R268). -/
theorem State.Steady.cachedX_lt (h : s.Steady) {tx : U16} (htx : tx ≠ 0) (ty : U16) :
    (s.cachedX tx ty).toNat < Config.lcdWidth := by
  obtain ⟨-, -, -, -, -, -, -, -, -, hx, -⟩ := h
  unfold State.cachedX
  split
  · next hhit => exact hx (hhit.2 ▸ htx)
  · exact transformX_lt _ _ _ _

/-- The cached y coordinate of a reading is on the screen: kept from an earlier one, or clamped (R268). -/
theorem State.Steady.cachedY_lt (h : s.Steady) {ty : U16} (hty : ty ≠ 0) (tx : U16) :
    (s.cachedY tx ty).toNat < Config.lcdHeight := by
  obtain ⟨-, -, -, -, -, -, -, -, -, -, hy⟩ := h
  unfold State.cachedY
  split
  · next hhit => exact hy (hhit.2 ▸ hty)
  · exact transformY_lt _ _ _ _

theorem acceptReading_settled (p : Byte) (tx ty : U16) (h : s.Settled) : (acceptReading p tx ty s).Settled := by
  have hx := fun htx => h.1.cachedX_lt (tx := tx) htx ty
  have hy := fun hty => h.1.cachedY_lt (ty := ty) hty tx
  rw [acceptReading_eq]
  obtain ⟨⟨hrom, hctl, hspe, horder, htcs, hdiv, hbatch, hdims, hden, -⟩, hact⟩ := h
  exact ⟨⟨hrom, hctl, hspe, horder, htcs, hdiv, hbatch, hdims, hden, hx, hy⟩, hact⟩

theorem touchReadBody_settled (h : s.Settled) : (touchReadBody s).final.Settled := by
  unfold touchReadBody
  split
  · cases hd : s.st.dcsN with
    | false => rw [rawSample_conflict s hd]; exact h.raise _
    | true =>
      obtain ⟨os, hraw | ⟨p, tx, ty, hraw⟩⟩ := rawSample_sampled hd <;> rw [hraw]
      · exact ⟨h.1.sampled os, h.2⟩
      · exact acceptReading_settled p tx ty ⟨h.1.sampled os, h.2⟩
  · exact h

end States

/-! ### Behind the prelude (R304) -/

section Operations
variable {s t : State}

theorem hostOp_sound {k : OpClass} {body : State → Flow} (h : s.Settled)
    (hbody : s.st.fault = none → (k = .init ∨ s.st.initDone = true) → (k = .batch ∨ s.st.inBatch = false) →
      (body s).final.Sound) : (hostOp k body s).Sound := by
  obtain ⟨c, -, e⟩ | ⟨-, e⟩ | ⟨-, e⟩ | ⟨hfault, hinit, hbatch, e⟩ := hostOp_cases k body s <;> rw [e]
  · exact h.sound
  · exact (h.raise _).sound
  · exact (h.raise _).sound
  · exact hbody hfault hinit hbatch

theorem hostOp_sound_of_settled {k : OpClass} {body : State → Flow} (h : s.Settled)
    (hbody : (body s).final.Settled) : (hostOp k body s).Sound := hostOp_sound h fun _ _ _ => hbody.sound

theorem plainOp_sound {k : OpClass} {body : State → Flow} (h : s.Settled)
    (hbody : (k = .batch ∨ s.st.inBatch = false) → (body s).final.Settled) : (plainOp k body s).Sound :=
  hostOp_sound h fun _ _ hbatch => (Flow.final_map (k := State.setResult .ok) (hbody hbatch) fun _ ht => ht).sound

/-! ### The long operations (R231, R330) -/

/-- Which operation is in progress is no part of it. -/
theorem State.Steady.goOn (h : s.Steady) (a : Activity) (r : Option OpResult) :
    State.Steady { s with activity := a, result := r } := h

theorem calibrateBody_sound (fg bg : U16) (h : s.Settled) (hfault : s.st.fault = none) (hinit : s.st.initDone = true)
    (hbatch : s.st.inBatch = false) : (calibrateBody fg bg s).final.Sound := by
  cases hd : s.st.dcsN with
  | false => rw [calibrateBody, requireNoBracket_stop hd]; exact (h.raise _).sound
  | true =>
    have hsaved : (s.onSt (fun b => { b with calSaved := b.orient })).Steady := h.1
    have hturned : (((s.onSt (fun b => { b with calSaved := b.orient })).oriented .deg0).onSt
        (fun b => { b with calI := 0 })).Steady := hsaved.oriented hbatch .deg0
    have hpolling : (s.calEntered fg bg).ActivityOk := by
      have hact : (s.calEntered fg bg).activity = .polling fg bg := rfl
      rw [State.ActivityOk, hact, State.calEntered_st fg bg hbatch]
      exact ⟨hfault, hinit, rfl, rfl, rfl, Nat.zero_le 2⟩
    have hdrawn := (State.drew_crosshaired (refPoint 0) fg bg _).steady hturned
    rw [calibrateBody_go fg bg s hd, Flow.final_go]
    exact ⟨hdrawn.goOn _ _, hpolling⟩

theorem orientWidth_deg0 : orientWidth Orientation.deg0.byte = 320 := by decide

theorem orientHeight_deg0 : orientHeight Orientation.deg0.byte = 240 := by decide

theorem Block.initEntered_dimsAgree (k : DivCode) (b : Block) : (b.initEntered k).DimsAgree :=
  ⟨orientWidth_deg0.symm, orientHeight_deg0.symm⟩

theorem Block.initEntered_ok (arith : CalArith) (k : DivCode) (b : Block) : (b.initEntered k).Ok arith :=
  ⟨fun _ => rfl, fun _ => rfl, rfl, rfl, nofun, Block.initEntered_dimsAgree k b, nofun,
    fun h0 => absurd rfl h0, fun h0 => absurd rfl h0⟩

theorem initBody_sound (k : DivCode) (h : s.Settled) (hfault : s.st.fault = none) : (initBody k s).final.Sound := by
  obtain ⟨⟨hrom, -, -⟩, -⟩ := h
  have hctl : (s.initEntered k).ctl.Ok := by
    rw [State.initEntered, State.after_ctl]
    exact Ctl.word_ok _ _ _ (Ctl.afterReset_ok _)
  rw [initBody_go, Flow.final_go]
  exact ⟨⟨hrom, hctl, Block.initEntered_ok _ k s.st⟩, hfault, rfl, rfl, rfl, rfl⟩

/-! ### Instructions -/

theorem State.Sound.of_next {a : Answer} {u : State} (ht : a = .next t) (hrun : a = .next u) (hu : u.Sound) : t.Sound :=
  Host.Outcome.next.inj (hrun.symm.trans ht) ▸ hu

theorem touchXfer_sound (o : Byte) (h : s.Sound) : (touchXfer o s).Sound := h

theorem conversion8_sound (cmd : Byte) (h : s.Sound) : (conversion8 cmd s).2.Sound := h

theorem sampleAxis_sound (cmd : Byte) (h : s.Sound) : (sampleAxis cmd s).2.Sound := by
  have htwo {u : State} (hu : u.Sound) (o o' : Byte) : (touchXfer o' (touchXfer o u)).Sound :=
    touchXfer_sound o' (touchXfer_sound o hu)
  exact htwo (htwo (htwo h _ _) _ _) _ _


/-- An instruction between operations: every one but those of the init program. -/
theorem exec_sound (h : s.Settled) {i : Instr} (hi : ∀ b, encode i ≠ .rom b) (hexec : exec i s = .next t) :
    t.Sound := by
  have hwire w (hw : encode i = .wire w) : t.Sound :=
    .of_next hexec (exec_of_encode_wire hw s) (stepOp_sound h.sound fun _ => word_sound h.sound _ _)
  have htouch {conversion : State → U16 × State} (hconv : (conversion s).2.Sound) :
      (stepOp (touchStep conversion) s).Sound := stepOp_sound h.sound fun _ => touchStep_sound h.sound hconv
  cases i with
  | endProgram => exact absurd rfl (hi _)
  | dataRun n => exact absurd rfl (hi _)
  | cmdRun n => exact absurd rfl (hi _)
  | reservedInit b => exact absurd rfl (hi _)
  | touchZ1 => exact .of_next hexec rfl (htouch (conversion8_sound _ h.sound))
  | touchZ2 => exact .of_next hexec rfl (htouch (conversion8_sound _ h.sound))
  | touchX => exact .of_next hexec rfl (htouch (sampleAxis_sound _ h.sound))
  | touchY => exact .of_next hexec rfl (htouch (sampleAxis_sound _ h.sound))
  | initBlock k => exact .of_next hexec rfl (hostOp_sound h fun hfault _ _ => initBody_sound k h hfault)
  | beginTx => exact .of_next hexec rfl (plainOp_sound h fun _ => beginBody_settled h)
  | endTx => exact .of_next hexec rfl (plainOp_sound h fun hbatch => endBody_settled h (hbatch.resolve_left nofun))
  | sendCmd b => exact .of_next hexec rfl (plainOp_sound h fun _ => word_settled h _ _)
  | sendData b => exact .of_next hexec rfl (plainOp_sound h fun _ => word_settled h _ _)
  | sendData16 v => exact .of_next hexec rfl (plainOp_sound h fun _ => words_settled _ h)
  | setOrientation o =>
    exact .of_next hexec rfl (plainOp_sound h fun hbatch => setOrientationBody_settled o h (hbatch.resolve_left nofun))
  | setInverted inv =>
    exact .of_next hexec rfl (plainOp_sound h fun hbatch => setInvertedBody_settled inv h (hbatch.resolve_left nofun))
  | batchStart x y w hh => exact .of_next hexec rfl (plainOp_sound h fun _ => batchStartBody_settled x y w hh h)
  | batchDraw c => exact .of_next hexec rfl (plainOp_sound h fun _ => batchDrawBody_settled c h)
  | batchStop => exact .of_next hexec rfl (plainOp_sound h fun _ => batchStopBody_settled h)
  | drawPixel x y c => exact .of_next hexec rfl (plainOp_sound h fun _ => drawPixelBody_settled x y c h)
  | fillRect x y w hh c => exact .of_next hexec rfl (plainOp_sound h fun _ => fillRectBody_settled _ c h)
  | fillScreen c => exact .of_next hexec rfl (plainOp_sound h fun _ => fillScreenBody_settled c h)
  | touchRawRead => exact .of_next hexec rfl (hostOp_sound_of_settled h (touchRawBody_settled h))
  | touchCalibrate fg bg =>
    exact .of_next hexec rfl (hostOp_sound h fun hfault hinit hbatch =>
      calibrateBody_sound fg bg h hfault (hinit.resolve_left nofun) (hbatch.resolve_left nofun))
  | touchRead => exact .of_next hexec rfl (hostOp_sound_of_settled h (touchReadBody_settled h))
  | setBrightness pct => exact .of_next hexec rfl (plainOp_sound h fun _ => h.raise _)
  | _ => exact hwire _ rfl

/-- An instruction of the init program, inside INIT (R140). -/
theorem exec_decodeRom_sound (h : s.Sound) (hact : s.activity = .initProgram) (b : Byte)
    (hexec : exec (decodeRom b) s = .next t) : t.Sound := by
  have htail : ({ s with activity := .initTail } : State).Sound := by
    obtain ⟨hsteady, hok⟩ := h
    rw [State.ActivityOk, hact] at hok
    exact ⟨hsteady, hok⟩
  have hspace : encode (decodeRom b) = .rom b := (encode_decodeRom b).2
  generalize decodeRom b = i at hexec hspace
  cases i with
  | endProgram => exact .of_next hexec rfl (stepOp_sound (body := endProgramBody) h fun _ => htail)
  | dataRun n => exact .of_next hexec rfl (stepOp_sound h fun _ => runBytes_sound _ _ h)
  | cmdRun n => exact .of_next hexec rfl (stepOp_sound h fun _ => runBytes_sound _ _ h)
  | reservedInit c =>
    exact .of_next hexec rfl (stepOp_sound (body := fail .badInitProgram) h fun _ => ⟨h.1, trivial⟩)
  | _ => cases hspace

/-! ### INIT's last part (R333 to R336) -/

/-- INIT is done in a block that has sent a word, with INIT's bit order (R331). -/
theorem State.Steady.initDone (h : s.Steady) (hspe : s.st.spe = true) (horder : s.st.order = .msbFirst) :
    (s.onSt (fun b => { b with initDone := true })).Steady := by
  obtain ⟨hrom, hctl, -, -, hrest⟩ := h
  exact ⟨hrom, hctl, fun _ => hspe, fun _ => horder, hrest⟩

theorem State.Steady.initLeft (h : s.Steady) (hbatch : s.st.inBatch = false) (horder : s.st.order = .msbFirst) :
    s.initLeft.Settled := by
  obtain ⟨hrom, hctl, hst⟩ := h
  have hclosed : Block.Ok s.params.calArith { s.st.afterWord false with dcsN := true } := by
    rw [← Block.afterWord_with_inBatch hbatch]; exact (hst.afterWord false).release
  have hbefore : (s.after [.w9 false 0x29, .ev (.csd true)] { s.st.afterWord false with dcsN := true }
      (s.ctl.word false 0x29)).Steady := ⟨hrom, by rw [State.after_ctl]; exact Ctl.word_ok _ _ _ hctl, hclosed⟩
  have hfilled := (State.drew_filledScreen 0x0000 _).steady hbefore
  have hdone := hfilled.initDone (by rw [State.filledScreen_st]; rfl) (by rw [State.filledScreen_st]; exact horder)
  exact ⟨hdone.goOn .idle (some .ok), rfl⟩

theorem step_initTail_sound (h : s.Sound) (hact : s.activity = .initTail) (hstep : step s = .next t) : t.Sound := by
  obtain ⟨hsteady, hok⟩ := h
  rw [State.ActivityOk, hact] at hok
  obtain ⟨hfault, hd, hbatch, hdeg0, horder⟩ := hok
  have ⟨_, _, _, _, _, _, _, ⟨hw, hh⟩, _⟩ := hsteady
  rw [hdeg0, orientWidth_deg0] at hw
  rw [hdeg0, orientHeight_deg0] at hh
  obtain rfl := Host.Outcome.next.inj (hstep.symm.trans (step_initTail_go hact ⟨hfault, hd⟩ hw hh))
  exact (hsteady.initLeft hbatch horder).sound

/-! ### A poll (R231, R240 to R242) -/

/-- The test for a commit is that the denominator the division uses is not zero: under u32 the word has 32 bits. -/
theorem denominatorNonzero_computeCal {arith : CalArith} {p : CalPoints} (h : (computeCal arith p).cdiv ≠ 0) :
    denominatorNonzero arith (computeCal arith p) := by
  cases arith with
  | s64 => exact h
  | u32 =>
    have hdiv : (computeCal .u32 p).cdiv = (coeffsU32 p).div.setWidth 64 := rfl
    rw [hdiv] at h
    rw [denominatorNonzero, hdiv]
    bv_omega

theorem State.onSt_activity (f : Block → Block) (s : State) : (s.onSt f).activity = s.activity := rfl

theorem State.Steady.counted (h : s.Steady) (n : Nat) : (s.onSt (fun b => { b with calI := n })).Steady := h

/-- A poll that takes a point and draws the next target goes on polling. -/
theorem nextTarget_sound (fg bg tx ty : U16) (h : s.Sound) {a b : U16} (hact : s.activity = .polling a b)
    (hi : s.st.calI < 2) : (s.nextTarget fg bg tx ty).Sound := by
  obtain ⟨hsteady, hok⟩ := h
  rw [State.ActivityOk, hact] at hok
  obtain ⟨hfault, hinit, -, -, hdeg0, -⟩ := hok
  have htaken : (s.onSt (fun b => { b with calT := b.calT.set b.calI { x := tx, y := ty } })).Steady := hsteady
  have hcounted : ((s.accepted fg bg tx ty).onSt (fun b => { b with calI := s.st.calI + 1 })).Steady :=
    ((State.drew_accepted fg bg tx ty s).steady htaken).counted _
  have hpolling : (s.nextTarget fg bg tx ty).activity = .polling a b := by
    rw [(State.drew_nextTarget fg bg tx ty s).activity, State.onSt_activity,
      (State.drew_accepted fg bg tx ty s).activity, State.onSt_activity, hact]
  refine ⟨(State.drew_nextTarget fg bg tx ty s).steady hcounted, ?_⟩
  rw [State.ActivityOk, hpolling, State.nextTarget_st]
  exact ⟨hfault, hinit, rfl, rfl, hdeg0, Nat.succ_le_of_lt hi⟩

/-- The orientation restored after the last point (R241). -/
theorem calRestored_settled (r : OpResult) (fg bg tx ty : U16) (h : s.Steady) :
    ((s.accepted fg bg tx ty).calRestored r).Settled := by
  have htaken : (s.onSt (fun b => { b with calT := b.calT.set b.calI { x := tx, y := ty } })).Steady := h
  have hcounted : ((s.accepted fg bg tx ty).onSt (fun b => { b with calI := 3 })).Steady :=
    ((State.drew_accepted fg bg tx ty s).steady htaken).counted _
  exact ⟨(hcounted.oriented (by rw [State.onSt, State.accepted_st]) _).goOn .idle (some r), rfl⟩

theorem commitCal_settled {w : CalWords} (h : s.Settled) (hw : denominatorNonzero s.params.calArith w) :
    (commitCal w s).Settled := by
  obtain ⟨⟨hrom, hctl, hst⟩, hact⟩ := h
  exact ⟨⟨hrom, hctl, hst.commit hw⟩, hact⟩

theorem step_poll_sound (h : s.Inv) {fg bg : U16} (hact : s.activity = .polling fg bg) (hstep : step s = .next t) :
    t.Sound := by
  have hsound := State.inv_iff_sound.mp h
  obtain ⟨_, _, hd, _, _, hi⟩ := h.polling hact
  obtain ⟨os, hraw | ⟨p, tx, ty, hraw⟩⟩ := rawSample_sampled hd
  · have hpoll := h.step_poll hact
    rw [pollBody_noTouch hraw, Flow.final_go] at hpoll
    exact .of_next hstep hpoll ⟨hsound.1.sampled os, hsound.2⟩
  obtain hi | hi := Nat.lt_or_eq_of_le hi
  · have hdraw : (s.sampled os).Drawable := h.drawable hd
    have hpoll := h.step_poll hact
    rw [pollBody_touch hraw, acceptPoint_next _ _ _ _ _ hdraw hi, Flow.final_go] at hpoll
    exact .of_next hstep hpoll (nextTarget_sound fg bg tx ty ⟨hsound.1.sampled os, hsound.2⟩ hact hi)
  · refine .of_next hstep (h.step_lastPoint hact hi hraw rfl) ?_
    have hrestored r := calRestored_settled r fg bg tx ty (hsound.1.sampled os)
    split
    · exact (hrestored _).sound
    · next hdiv =>
      have hparams : (((s.sampled os).accepted fg bg tx ty).calRestored .ok).params = s.params :=
        (State.drew_accepted fg bg tx ty (s.sampled os)).params
      exact (commitCal_settled (hrestored _) (by rw [hparams]; exact denominatorNonzero_computeCal hdiv)).sound

end Operations

/-! ### Steps -/

/-- Settles O52. -/
theorem stepKeepsInvariant : Obligations.StepKeepsInvariant := by
  intro s t hinv hstep
  have hsound := State.inv_iff_sound.mp hinv
  refine State.inv_iff_sound.mpr ?_
  have hissued rest (hidle : s.activity = .idle) : State.Settled { s with issue := rest } := ⟨hsound.1, hidle⟩
  cases step_case s with
  | waits _ _ hwait => exact .of_next hstep hwait hsound
  | packet p rest i hidle _ hcode hrun =>
    have hspace b : encode i ≠ .rom b := by rw [hcode]; cases p <;> nofun
    exact exec_sound (hissued rest hidle) hspace (hrun.symm.trans hstep)
  | rejected bs rest k code hidle _ hrej =>
    exact .of_next hstep hrej (hostOp_sound_of_settled (hissued rest hidle) ((hissued rest hidle).raise code))
  | notSent _ _ _ _ _ hrefused => cases hstep.symm.trans hrefused
  | romByte b hact _ hrun =>
    have hadvanced : (s.onSt (fun st => { st with ip := st.ip + 1 })).Sound := hsound
    exact exec_decodeRom_sound hadvanced hact b (hrun.symm.trans hstep)
  | romEnd _ hend => exact .of_next hstep hend (stepOp_sound hsound fun _ => ⟨hsound.1, trivial⟩)
  | initTail hact _ => exact step_initTail_sound hsound hact hstep
  | poll fg bg hact _ _ => exact step_poll_sound hinv hact hstep
  | noPoint _ _ _ _ hfault => cases hstep.symm.trans hfault

/-- The invariant holds after any run. -/
theorem runSteps_keepsInvariant {n : Nat} {s t : State} (h : s.Inv) (hrun : runSteps n s = .next t) : t.Inv := by
  induction n generalizing s with
  | zero => cases hrun; exact h
  | succ n ih =>
    rw [runSteps] at hrun
    split at hrun
    · next u hu => exact ih (stepKeepsInvariant _ _ h hu) hrun
    · cases hrun
    · cases hrun

/-- Settles O54: the items are the invariant's. -/
theorem betweenOperationsItems : Obligations.BetweenOperationsItems := by
  intro n s t hs hrun _ hinit _
  have hinv := runSteps_keepsInvariant hs hrun
  refine ⟨hinv.engineOn hinit, hinv.touchReleased, hinv.divisorRestored, hinv.batchSelected, fun ⟨_, htcs⟩ => ?_,
    hinv.dimsAgree⟩
  exact absurd (hinv.touchReleased.symm.trans htcs) nofun

end Sys2Proof.Machine
